-- ==== Sys2Proof/Word.lean ====
section
/-! DEFINITION. The machine word (00_scope.md R9). -/

namespace Sys2Proof

/-- A word: an unsigned integer of `W = 64` bits (00_scope.md R6); bit 0 is the least significant (R9). `+`, `-` and `*` on
it are modulo `2^64`, `<<<` and `>>>` are the logical shifts of R9. -/
abbrev Word := BitVec 64

end Sys2Proof
end

