-- ==== Sys2Proof/Syntax.lean ====
section
/-! DEFINITION. The requests a host sends (30_encoding.md R70) and the nine commands they spell (R75). -/

namespace Sys2Proof

/-- A request: one 32-bit command word and one 64-bit data word (30_encoding.md R70, R79). -/
structure Request where
  /-- The command word, `op` in bits 31..24 and `imm` in bits 23..0 (R71). -/
  cmd : BitVec 32
  /-- The data operand (R73). -/
  data : Word
deriving DecidableEq, Repr

/-- The nine commands, one constructor per row of spec/opcode_table.json (30_encoding.md R75). An immediate is an integer
(R72); the two commands that read `data` carry it (R73). -/
inductive Instr where
  /-- SEED_SCALAR <data> (41_seeding.md R131). -/
  | seedScalar (data : Word)
  /-- KEY_WRITE <j>, <data> (41_seeding.md R132). -/
  | keyWrite (j : Nat) (data : Word)
  /-- SEED_ARRAY <len> (41_seeding.md R139). -/
  | seedArray (len : Nat)
  /-- NEXT (40_recurrence.md R110). -/
  | next
  /-- JUMP (42_jump_merge.md R166). -/
  | jump
  /-- READ_WORD <i> (43_inspect.md R190). -/
  | readWord (i : Nat)
  /-- READ_LUNG (43_inspect.md R191). -/
  | readLung
  /-- READ_INDEX (43_inspect.md R192). -/
  | readIndex
  /-- READ_INFO (43_inspect.md R193). -/
  | readInfo
deriving DecidableEq, Repr

end Sys2Proof
end

