-- ==== Sys2Proof/WellFormed.lean ====
section
/-! DEFINITION. Which commands an encoding can spell: `<j>`, `<len>` and `<i>` are 24-bit values, and the assembler
refuses an immediate that does not fit (30_encoding.md R71, R72, R80). -/

namespace Sys2Proof

/-- The immediate fits the 24-bit field `cmd[23:0]` (30_encoding.md R71, R72). -/
def immFits (n : Nat) : Bool := decide (n < 2 ^ 24)

/-- A command is well formed if its immediate fits (30_encoding.md R80). The range a command accepts (R72) is checked
when it runs: out of range it answers `E_INVALID_ARGUMENT`. -/
def Instr.wellFormed : Instr → Bool
  | .seedScalar _ => true
  | .keyWrite j _ => immFits j
  | .seedArray len => immFits len
  | .next => true
  | .jump => true
  | .readWord i => immFits i
  | .readLung => true
  | .readIndex => true
  | .readInfo => true

end Sys2Proof
end

