-- ==== Sys2Proof/Decode.lean ====
section
/-! DEFINITION. Decoding a request (30_encoding.md R71 to R79) and encoding a command (R75, R80). -/

namespace Sys2Proof

/-- `op = cmd[31:24]` (30_encoding.md R71). -/
def opField (cmd : BitVec 32) : BitVec 8 := cmd.extractLsb' 24 8

/-- `imm = cmd[23:0]` (30_encoding.md R71). -/
def immField (cmd : BitVec 32) : BitVec 24 := cmd.extractLsb' 0 24

/-- `zext(cmd[23:0])`, an integer from 0 to `2^24 - 1`, never sign-extended (30_encoding.md R72). -/
def immValue (cmd : BitVec 32) : Nat := (immField cmd).toNat

/-- A row of the opcode map: a command word `w` spells the row's command iff `w & mask = match` (30_encoding.md R75). -/
structure OpcodeRow where
  mnemonic : String
  matchBits : BitVec 32
  mask : BitVec 32
deriving DecidableEq, Repr

/-- The opcode map (30_encoding.md R75; spec/opcode_table.json). -/
def opcodeTable : List OpcodeRow :=
  [ ⟨"SEED_SCALAR", 0x01000000, 0xFFFFFFFF⟩,
    ⟨"KEY_WRITE",   0x02000000, 0xFF000000⟩,
    ⟨"SEED_ARRAY",  0x03000000, 0xFF000000⟩,
    ⟨"NEXT",        0x04000000, 0xFFFFFFFF⟩,
    ⟨"JUMP",        0x05000000, 0xFFFFFFFF⟩,
    ⟨"READ_WORD",   0x06000000, 0xFF000000⟩,
    ⟨"READ_LUNG",   0x07000000, 0xFFFFFFFF⟩,
    ⟨"READ_INDEX",  0x08000000, 0xFFFFFFFF⟩,
    ⟨"READ_INFO",   0x09000000, 0xFFFFFFFF⟩ ]

/-- The row's command spelled by `w`: `(w & mask) == match` (30_encoding.md R75). -/
def OpcodeRow.spells (row : OpcodeRow) (w : BitVec 32) : Bool := w &&& row.mask == row.matchBits

/-- The mnemonic of a command in the opcode map (30_encoding.md R75). -/
def mnemonic : Instr → String
  | .seedScalar _ => "SEED_SCALAR"
  | .keyWrite _ _ => "KEY_WRITE"
  | .seedArray _ => "SEED_ARRAY"
  | .next => "NEXT"
  | .jump => "JUMP"
  | .readWord _ => "READ_WORD"
  | .readLung => "READ_LUNG"
  | .readIndex => "READ_INDEX"
  | .readInfo => "READ_INFO"

/-- Why a command word is no legal encoding. Either reason is answered with `E_ILLEGAL_COMMAND` (60_exceptions.md R212). -/
inductive DecodeError where
  /-- `op` is `0x00` or in `0x0A` to `0xFF` (30_encoding.md R76). -/
  | reservedOpcode (op : BitVec 8)
  /-- The command takes no immediate and `cmd[23:0]` is not 0 (30_encoding.md R77). -/
  | reservedImmediate (op : BitVec 8) (imm : BitVec 24)
deriving DecidableEq, Repr

/-- A command whose `cmd[23:0]` is reserved and must be 0 (30_encoding.md R77). -/
def withoutImmediate (cmd : BitVec 32) (i : Instr) : Except DecodeError Instr :=
  if immField cmd = 0 then .ok i else .error (.reservedImmediate (opField cmd) (immField cmd))

/-- The command a request spells, or why it spells none. Total on all `2^32` command words (30_encoding.md R75 to R78);
`data` is never looked at but by the two commands that read it (R73). -/
def decode (r : Request) : Except DecodeError Instr :=
  match (opField r.cmd).toNat with
  | 0x01 => withoutImmediate r.cmd (.seedScalar r.data)
  | 0x02 => .ok (.keyWrite (immValue r.cmd) r.data)
  | 0x03 => .ok (.seedArray (immValue r.cmd))
  | 0x04 => withoutImmediate r.cmd .next
  | 0x05 => withoutImmediate r.cmd .jump
  | 0x06 => .ok (.readWord (immValue r.cmd))
  | 0x07 => withoutImmediate r.cmd .readLung
  | 0x08 => withoutImmediate r.cmd .readIndex
  | 0x09 => withoutImmediate r.cmd .readInfo
  | _ => .error (.reservedOpcode (opField r.cmd))

/-- A command word of format `C24`, `op << 24 | imm` (30_encoding.md R71, R80). The immediate's low 24 bits are taken:
`Instr.wellFormed` says that no bit is lost. -/
def c24 (op : BitVec 8) (imm : Nat) : BitVec 32 := op.setWidth 32 <<< 24 ||| (BitVec.ofNat 24 imm).setWidth 32

/-- The request a command is assembled to; where no data word is written, `data = 0` (30_encoding.md R80). -/
def encode : Instr → Request
  | .seedScalar data => ⟨c24 0x01 0, data⟩
  | .keyWrite j data => ⟨c24 0x02 j, data⟩
  | .seedArray len => ⟨c24 0x03 len, 0⟩
  | .next => ⟨c24 0x04 0, 0⟩
  | .jump => ⟨c24 0x05 0, 0⟩
  | .readWord i => ⟨c24 0x06 i, 0⟩
  | .readLung => ⟨c24 0x07 0, 0⟩
  | .readIndex => ⟨c24 0x08 0, 0⟩
  | .readInfo => ⟨c24 0x09 0, 0⟩

/-- A request written as one number: the command word in bits 31..0, the data word, the request's operand word, in bits
95..32. The block has no byte order (20_memory.md R55), so the words are taken whole [log 3, log 8]. -/
def requestOfBits (w : Nat) : Request := ⟨BitVec.ofNat 32 w, BitVec.ofNat 64 (w / 2 ^ 32)⟩

/-- The command the decoder reads from the `nbits` low bits of `w`, every bit above them 0. -/
def decodeTableWord (nbits w : Nat) : Option Instr := (decode (requestOfBits (w % 2 ^ nbits))).toOption

end Sys2Proof
end

