-- ==== Sys2Proof/Config.lean ====
section
/-! DEFINITION. The configuration record of a block (00_scope.md R6). It is fixed when the block is built; no command
reads or writes it, but for READ_INFO, which reports three of its fields (R6, 10_state.md R29). -/

namespace Sys2Proof

/-- Which word supplies the high `P` bits of `combined` (40_recurrence.md R101; 90_conflicts.md C1). The normative value
is `indexHigh`; `nextHigh` is the source's literal sentence, for comparison runs (00_scope.md R6, 70_reset_and_hazards.md R258). -/
inductive SplitSource where
  /-- `INDEX_HIGH`: the high bits come from `words[index]`. -/
  | indexHigh
  /-- `NEXT_HIGH`: the high bits come from `words[(index + 1) mod N]`. -/
  | nextHigh
deriving DecidableEq, Repr

/-- The configuration record (00_scope.md R6). `W` is the constant 64, the width of `Word`. -/
structure Config where
  /-- Number of words in the circular buffer. -/
  N : Nat
  /-- Mid-lag: offset of the word XORed into `lung`. -/
  M : Nat
  /-- Tempering lag: offset of the word masked into the output. -/
  L : Nat
  /-- Split point: number of high bits `combined` takes from one word. -/
  P : Nat
  /-- `MATRIX_A`, the twist constant. -/
  matrixA : Word
  /-- Left shift amount applied to `lung`; one per configuration (90_conflicts.md C2, C4). -/
  A1 : Nat
  /-- Right shift amount applied to the new `lung` (90_conflicts.md C4). -/
  A2 : Nat
  /-- `SHIFT`, the tempering left shift amount. -/
  shift : Nat
  /-- `MASK`, the tempering mask. -/
  mask : Word
  /-- `JUMP_POLY`: the literal's hex digits, first written first (20_memory.md R53); `none` where the configuration has no
  jump polynomial. This is the jump polynomial ROM. -/
  jumpPoly : Option (List Char)
  /-- `KEY_DEPTH`: number of entries of the key RAM. -/
  keyDepth : Nat
  /-- `SPLIT_SOURCE`. -/
  splitSource : SplitSource
deriving DecidableEq, Repr

end Sys2Proof
end

