-- ==== Sys2Proof/Machine/Instances.lean ====
section
/-! DEFINITION. The three configurations the spec writes out, made up for its test vectors (95_test_vectors.md V1), and
the one `State.reset` is built with [log 1]. No published parameter set is known to the spec (91_not_in_source.md G1). -/

namespace Sys2Proof.Machine

/-- TOY-A's jump literal, `z^1000` modulo the minimal polynomial of its step map (95_test_vectors.md V1, V5.2). -/
def toyAPoly : List Char :=
  ['3', 'E', 'E', 'D', '7', '2', 'D', 'F', '2', '8', '0', '0', '8', '2', '5', '8', 'A', '5', '6'] ++
  ['9', '1', '6', '0', '8', 'F', 'D', '1', '6', 'B', '7', '3', 'F', '9', '1', '6', '8', 'F', '7'] ++
  ['F', 'B', 'D', '2', '8', '0', '0', '5', '6', '7', '3', '6', '1', '4', '6', '1', '4', 'B', '0']

/-- TOY-A (95_test_vectors.md V1). -/
def toyA : Config :=
  { N := 3, M := 1, L := 2, P := 33, matrixA := 0x9E3779B97F4A7C15, A1 := 7, A2 := 11, shift := 5
    mask := 0x0F0F0F0F0F0F0F0F, jumpPoly := some toyAPoly, keyDepth := 4, splitSource := .indexHigh }

/-- TOY-A2: TOY-A with the jump polynomial `1 + z^2` (95_test_vectors.md V1). -/
def toyA2 : Config := { toyA with jumpPoly := some ['A'] }

/-- TOY-B, a configuration without a jump polynomial (95_test_vectors.md V1). -/
def toyB : Config :=
  { N := 9, M := 4, L := 6, P := 31, matrixA := 0xD1B54A32D192ED03, A1 := 22, A2 := 37, shift := 16
    mask := 0x123456789ABCDEF0, jumpPoly := none, keyDepth := 8, splitSource := .indexHigh }

/-- The configuration of the block that `State.reset` stands for. DESIGN CHOICE, unsafe [log 1]: the spec fixes the
record when a block is built (00_scope.md R6) and gives no published record (91_not_in_source.md G1). -/
def builtConfig : Config := toyA

end Sys2Proof.Machine
end

