-- ==== Sys2Proof/Machine/State.lean ====
section
/-! DEFINITION. The state of one block (10_state.md R20 to R38), the host's side of its interface (30_encoding.md R70, R82,
R83), the reasons a step can stop, and the state after reset (70_reset_and_hazards.md R250). -/

namespace Sys2Proof.Machine

/-- A state record `S`, the source's GeneratorState (00_scope.md R10; 10_state.md R20 to R23). The live state, `ACC` and
`T` have this one shape (R31, R32). -/
structure GenState where
  /-- `S.words[0..N-1]`, slot 0 first (10_state.md R21). -/
  words : List Word
  /-- `S.lung` (10_state.md R22). -/
  lung : Word
  /-- `S.index`, stored in a 24-bit field (10_state.md R23). -/
  index : BitVec 24
deriving DecidableEq, Repr

/-- What exists while SEED_ARRAY runs: the working state and its two cursors (10_state.md R26; 41_seeding.md R133). -/
structure SeedWork where
  /-- The working state `S` of the procedure. -/
  gen : GenState
  /-- The buffer cursor. -/
  i : Nat
  /-- The key cursor. -/
  j : Nat
deriving DecidableEq, Repr

/-- What exists while JUMP runs (10_state.md R31, R32). -/
structure JumpWork where
  /-- The accumulator `ACC` (10_state.md R31). -/
  acc : GenState
  /-- The work state `T`, the source's `live_state` (10_state.md R32). -/
  t : GenState
  /-- The bit cursor `k`: the polynomial bits processed so far (10_state.md R32). -/
  k : Nat
deriving DecidableEq, Repr

/-- The block's sequencing state: each part exists only during its command (10_state.md R26). -/
inductive Sequencer where
  /-- No SEED_ARRAY and no JUMP in progress. -/
  | idle
  /-- SEED_ARRAY in progress. -/
  | seeding (w : SeedWork)
  /-- JUMP in progress. -/
  | jumping (w : JumpWork)
deriving DecidableEq, Repr

/-- A response: an 8-bit status and a 64-bit result word (30_encoding.md R70). -/
structure Response where
  status : BitVec 8
  rdata : Word
deriving DecidableEq, Repr

/-- What the host does next (30_encoding.md R82, R83) [log 4]. -/
inductive HostEvent where
  /-- The host issues a request. -/
  | request (r : Request)
  /-- The host waits for the response to the request in progress; if none is, its wait is over at once. -/
  | wait
  /-- The host asserts reset (70_reset_and_hazards.md R250). -/
  | reset
deriving DecidableEq, Repr

/-- The state of one block, with the host's side of its interface. -/
structure State where
  /-- The configuration record, constant (00_scope.md R6; 10_state.md R20, R29). -/
  cfg : Config
  /-- The generator state `S` (10_state.md R20). While `seeded` is false it holds no value of the block's: nothing can
  observe what stands here (R37) [log 2]. -/
  gen : GenState
  /-- The `seeded` flag (10_state.md R24). -/
  seeded : Bool
  /-- The key RAM's entries (10_state.md R30). An entry whose valid bit is 0 holds no value of the block's (R37) [log 2]. -/
  key : List Word
  /-- The key RAM's valid bits (10_state.md R30). -/
  keyValid : List Bool
  /-- The block's sequencing state, idle between commands (10_state.md R26, R31, R32) [log 6]. -/
  sequencer : Sequencer
  /-- The request accepted and not yet answered: at most one command is in progress (30_encoding.md R82). -/
  pending : Option Request
  /-- The MODEL's own field: what the host does next, first event first. The command stream's position belongs to the
  host, not to the block (10_state.md R26) [log 4]. -/
  inputs : List HostEvent
  /-- The MODEL's own field: the responses delivered so far, first first, as an observation lists them
  (70_reset_and_hazards.md R257). No step reads it (10_state.md R27) [log 5]. -/
  responses : List Response
deriving DecidableEq, Repr

/-- The one reason a step can fault. The block itself has no fault: its errors are responses (60_exceptions.md R210;
93_implementation_defined.md Part 1). -/
inductive Fault where
  /-- Raised by `step` on a datum of type `State` that is no state of the block: a storage space of another size than the
  configuration's, an `index` not below `N` while seeded, or a sequencer busy between commands (10_state.md R20, R31, R33).
  Safe: the step stops, and no run from reset meets it [log 7]. -/
  | malformedState
deriving DecidableEq, Repr

/-- The reasons a step can be refused. -/
inductive Refusal where
  /-- Raised by an arm of `exec` for an instruction that has no meaning yet; no arm is left that does. Safe. -/
  | notModelled (mnemonic : String)
  /-- Raised by `step` when the configuration record is ill formed: such a record is refused before any command runs
  (00_scope.md R7; 93_implementation_defined.md X10). Safe: the spec asks a model for this refusal. -/
  | illFormedConfiguration
  /-- Raised by `step` when the host issues a request before the response to the previous one: such a request has no
  defined effect, and a model refuses the run (30_encoding.md R82; 93_implementation_defined.md X17). Safe: the spec asks
  a model for this refusal. -/
  | handshakeBroken
deriving DecidableEq, Repr

/-- The state right after reset of a block built with the record `c` (10_state.md R38; 70_reset_and_hazards.md R250):
`seeded` and every valid bit 0, no command in progress. The words, `lung`, `index` and the key entries are unspecified
and unreadable there; they stand at zero here, DESIGN CHOICE [log 2]. -/
def State.resetWith (c : Config) : State :=
  { cfg := c
    gen := { words := List.replicate c.N 0, lung := 0, index := 0 }
    seeded := false
    key := List.replicate c.keyDepth 0
    keyValid := List.replicate c.keyDepth false
    sequencer := .idle
    pending := none
    inputs := []
    responses := [] }

/-- The machine right after reset: a block built with `builtConfig` [log 1]. -/
def State.reset : State := State.resetWith builtConfig

end Sys2Proof.Machine
end

