-- ==== Sys2Proof/Machine/Flags.lean ====
section
/-! DEFINITION. The status a command reports (60_exceptions.md R211) and the INFO word (10_state.md R28). The block has no
condition codes and no arithmetic flags (R27); its one status flag is `State.seeded` (R24). -/

namespace Sys2Proof.Machine

/-- The command errors (60_exceptions.md R211). -/
inductive ErrorCode where
  /-- `E_ILLEGAL_COMMAND` (60_exceptions.md R212). -/
  | illegalCommand
  /-- `E_INVALID_ARGUMENT` (60_exceptions.md R213). -/
  | invalidArgument
  /-- `E_UNSUPPORTED` (60_exceptions.md R214). -/
  | unsupported
  /-- `E_NOT_SEEDED` (60_exceptions.md R215). -/
  | notSeeded
  /-- `E_KEY_UNWRITTEN` (60_exceptions.md R216). -/
  | keyUnwritten
deriving DecidableEq, Repr

/-- The status code of an error (60_exceptions.md R211). -/
def ErrorCode.status : ErrorCode → BitVec 8
  | .illegalCommand => 0x01
  | .invalidArgument => 0x02
  | .unsupported => 0x03
  | .notSeeded => 0x04
  | .keyUnwritten => 0x05

/-- The status code `OK` (60_exceptions.md R211). -/
def okStatus : BitVec 8 := 0x00

/-- A flag as a word: `zext_64` of one bit (00_scope.md R9). -/
def flagWord (b : Bool) : Word := if b then 1 else 0

/-- `JUMP_SUPPORTED`: the configuration has a jump polynomial (10_state.md R28; 42_jump_merge.md R168). -/
def jumpSupported (c : Config) : Bool := c.jumpPoly.isSome

/-- The INFO word (10_state.md R28; 43_inspect.md R193). -/
def infoWord (c : Config) (seeded : Bool) : Word :=
  BitVec.ofNat 64 c.N ||| flagWord (jumpSupported c) <<< 24 ||| flagWord seeded <<< 25
    ||| BitVec.ofNat 64 c.keyDepth <<< 32

end Sys2Proof.Machine
end

