-- ==== Sys2Proof/Machine/Operands.lean ====
section
/-! DEFINITION. The legal ranges of the immediates, which are plain zero-extended integers (30_encoding.md R72), and the
valid bits a key length asks for (60_exceptions.md R216). A 64-bit `data` operand is taken whole (R73). -/

namespace Sys2Proof.Machine

/-- KEY_WRITE's entry number: `0 ≤ j < KEY_DEPTH` (30_encoding.md R72; 60_exceptions.md R213). -/
def keyEntryLegal (c : Config) (j : Nat) : Bool := decide (j < c.keyDepth)

/-- SEED_ARRAY's key length: `1 ≤ len ≤ KEY_DEPTH` (30_encoding.md R72; 60_exceptions.md R213). -/
def keyLengthLegal (c : Config) (len : Nat) : Bool := decide (1 ≤ len) && decide (len ≤ c.keyDepth)

/-- READ_WORD's slot number: `0 ≤ i < N` (30_encoding.md R72; 60_exceptions.md R213). -/
def slotLegal (c : Config) (i : Nat) : Bool := decide (i < c.N)

/-- Every one of the first `len` key entries has been written since reset (41_seeding.md R139; 60_exceptions.md R216). -/
def keyWritten (s : State) (len : Nat) : Bool := (List.range len).all fun j => s.keyValid.getD j false

end Sys2Proof.Machine
end

