-- ==== Sys2Proof/Machine/Ops.lean ====
section
/-! DEFINITION. The operations every command is written over: the word operations of 00_scope.md R9, the three storage
spaces (20_memory.md R50 to R54), the response and the error (60_exceptions.md R210), and what a configuration record and
a state have to be (00_scope.md R7; 10_state.md R20, R31, R33). -/

namespace Sys2Proof.Machine

/-! ### Word operations -/

/-- `a mod n` on integers, in `[0, n)` also for negative `a` (00_scope.md R9). -/
def intMod (a : Int) (n : Nat) : Nat := (a % (n : Int)).toNat

/-- `UPPER_P`: ones in bits `[63 : 64-P]` (00_scope.md R9). -/
def upperMask (p : Nat) : Word := BitVec.allOnes 64 <<< (64 - p)

/-- `LOWER_WP = ~UPPER_P`: ones in bits `[63-P : 0]` (00_scope.md R9). -/
def lowerMask (p : Nat) : Word := ~~~upperMask p

/-- `xsl(s, v) = v ^ (v << s)` (00_scope.md R9). -/
def xsl (s : Nat) (v : Word) : Word := v ^^^ (v <<< s)

/-- `xsr(s, v) = v ^ (v >> s)` (00_scope.md R9). -/
def xsr (s : Nat) (v : Word) : Word := v ^^^ (v >>> s)

/-- `zext_64` of an integer (00_scope.md R9). -/
def zext64 (n : Nat) : Word := BitVec.ofNat 64 n

/-! ### Buffer slots -/

/-- `S.words[i]` (00_scope.md R10; 20_memory.md R52). -/
def readSlot (g : GenState) (i : Nat) : Word := g.words.getD i 0

/-- `S.words[i] <- v` (00_scope.md R10). -/
def writeSlot (g : GenState) (i : Nat) (v : Word) : GenState := { g with words := g.words.set i v }

/-- `S.lung <- v` (00_scope.md R10; 10_state.md R22). -/
def setLung (g : GenState) (v : Word) : GenState := { g with lung := v }

/-- `S.index <- i`, into the 24-bit field (00_scope.md R10; 10_state.md R23). -/
def setIndex (g : GenState) (i : Nat) : GenState := { g with index := BitVec.ofNat 24 i }

/-- The slot `d` places after `S.index`, modulo `N` (20_memory.md R52). -/
def slotAt (c : Config) (g : GenState) (d : Nat) : Nat := (g.index.toNat + d) % c.N

/-- The zero state at a given index: every word and `lung` zero (10_state.md R31; 42_jump_merge.md R164). -/
def zeroGen (c : Config) (index : BitVec 24) : GenState :=
  { words := List.replicate c.N 0, lung := 0, index := index }

/-! ### The key RAM -/

/-- `KeyRead(j)`; used only where `key_valid[j] = 1` (20_memory.md R51). -/
def keyRead (key : List Word) (j : Nat) : Word := key.getD j 0

/-- `KeyWrite(j, v)`: `key[j] <- v`, then `key_valid[j] <- 1` (20_memory.md R51). -/
def State.keyWrite (s : State) (j : Nat) (v : Word) : State :=
  { s with key := s.key.set j v, keyValid := s.keyValid.set j true }

/-! ### The jump polynomial ROM -/

/-- The value of a hex digit, `0`-`9`, `a`-`f` or `A`-`F` (20_memory.md R53); `none` for any other character. -/
def hexValue (ch : Char) : Option Nat :=
  let n := ch.toNat
  if 48 ≤ n ∧ n ≤ 57 then some (n - 48)
  else if 97 ≤ n ∧ n ≤ 102 then some (n - 87)
  else if 65 ≤ n ∧ n ≤ 70 then some (n - 55)
  else none

/-- The value of digit `h_d` of the literal (20_memory.md R53). A well-formed record's literal holds hex digits only
(00_scope.md R7). -/
def polyDigit (digits : List Char) (d : Nat) : Nat := (hexValue (digits.getD d '0')).getD 0

/-- `PolyBit(k)`: bit `3 - (k mod 4)` of digit `h_{k div 4}` (20_memory.md R54). -/
def polyBit (digits : List Char) (k : Nat) : Bool := (polyDigit digits (k / 4)).testBit (3 - k % 4)

/-- The number of polynomial bits, `4·D` (20_memory.md R50). -/
def polyBits (digits : List Char) : Nat := 4 * digits.length

/-! ### Well-formed records and states -/

/-- A jump polynomial literal is well formed if it has at least one digit, only hex digits, and a digit that is not zero
(00_scope.md R7). -/
def literalWellFormed (digits : List Char) : Bool :=
  !digits.isEmpty && digits.all (fun ch => (hexValue ch).isSome) && digits.any (fun ch => hexValue ch != some 0)

/-- A configuration without `JUMP_POLY` is as well formed as one with a well-formed literal (00_scope.md R6, R7). -/
def jumpPolyWellFormed : Option (List Char) → Bool
  | none => true
  | some digits => literalWellFormed digits

end Sys2Proof.Machine

namespace Sys2Proof

/-- A configuration record is well formed (00_scope.md R7). `MATRIX_A` and `MASK` may be any word. -/
abbrev Config.WellFormed (c : Config) : Prop :=
  (2 ≤ c.N ∧ c.N ≤ 2 ^ 24 - 1) ∧ (1 ≤ c.M ∧ c.M ≤ c.N - 1) ∧ (1 ≤ c.L ∧ c.L ≤ c.N - 1) ∧ (1 ≤ c.P ∧ c.P ≤ 63) ∧
  (1 ≤ c.A1 ∧ c.A1 ≤ 63) ∧ (1 ≤ c.A2 ∧ c.A2 ≤ 63) ∧ (1 ≤ c.shift ∧ c.shift ≤ 63) ∧
  (1 ≤ c.keyDepth ∧ c.keyDepth ≤ 2 ^ 24 - 1) ∧ Machine.jumpPolyWellFormed c.jumpPoly = true

end Sys2Proof

namespace Sys2Proof.Machine

/-- A state record has the shape of 00_scope.md R10: `N` words and an index below `N`. -/
abbrev GenState.WellFormed (c : Config) (g : GenState) : Prop :=
  g.words.length = c.N ∧ g.index.toNat < c.N

/-- The storage spaces have the sizes of 20_memory.md R50: `N` buffer slots, `KEY_DEPTH` key entries, each with its valid
bit. Each space is dense, so equal contents are equal data. -/
abbrev Memory.wf (s : State) : Prop :=
  s.gen.words.length = s.cfg.N ∧ s.key.length = s.cfg.keyDepth ∧ s.keyValid.length = s.cfg.keyDepth

/-- A datum of type `State` is a state of the block between commands: the storage spaces have their sizes (20_memory.md
R50), `index` is below `N` whenever the block is seeded (10_state.md R33), and no sequencer is busy (R31, R32, R26). -/
abbrev State.WellFormed (s : State) : Prop :=
  Memory.wf s ∧ (s.seeded = true → s.gen.index.toNat < s.cfg.N) ∧ s.sequencer = .idle

/-- The invariant of every run: the record is well formed (70_reset_and_hazards.md R258) and the state is one of the
block's. -/
abbrev State.Inv (s : State) : Prop := s.cfg.WellFormed ∧ s.WellFormed

/-! ### Updates of the state -/

/-- `S <- g`. -/
def State.loadGen (s : State) (g : GenState) : State := { s with gen := g }

/-- `S <- g; seeded <- 1` (41_seeding.md R131, R139). -/
def State.seed (s : State) (g : GenState) : State := { s with gen := g, seeded := true }

/-- The sequencing state becomes `q` (10_state.md R26). -/
def State.setSequencer (s : State) (q : Sequencer) : State := { s with sequencer := q }

/-- `respond(status, rdata)`: ends the command and delivers its one response (00_scope.md R10; 30_encoding.md R70). The
status is not stored in the block (10_state.md R27). -/
def State.respond (s : State) (status : BitVec 8) (rdata : Word) : State :=
  { s with pending := none, responses := s.responses ++ [⟨status, rdata⟩] }

/-- A command succeeds: status `0x00` and its result word (30_encoding.md R74; 60_exceptions.md R211). -/
def State.succeed (s : State) (rdata : Word) : State := s.respond okStatus rdata

/-- `raise e`, this block's whole exception entry: the response is the error's status with `rdata = 0`, and no state of
the block changes (00_scope.md R10; 60_exceptions.md R210, R221). There is no handler, so there is no return from one: the
next request is handled like any other (R222). -/
def State.raise (s : State) (e : ErrorCode) : State := s.respond e.status 0

end Sys2Proof.Machine
end

