-- ==== Sys2Proof/Machine/Inspect.lean ====
section
/-! DEFINITION. The inspection commands (43_inspect.md). None of them changes any state (20_memory.md R59). -/

namespace Sys2Proof.Machine

/-- READ_WORD: return one buffer slot, a raw slot number; its range is checked first (43_inspect.md R190). -/
def execReadWord (i : Nat) (s : State) : Host.Outcome State Fault Refusal :=
  if slotLegal s.cfg i then
    if s.seeded then .next (s.succeed (readSlot s.gen i)) else .next (s.raise .notSeeded)
  else .next (s.raise .invalidArgument)

/-- READ_LUNG: return the lung word (43_inspect.md R191). -/
def execReadLung (s : State) : Host.Outcome State Fault Refusal :=
  if s.seeded then .next (s.succeed s.gen.lung) else .next (s.raise .notSeeded)

/-- READ_INDEX: return the buffer position, zero-extended (43_inspect.md R192). -/
def execReadIndex (s : State) : Host.Outcome State Fault Refusal :=
  if s.seeded then .next (s.succeed (zext64 s.gen.index.toNat)) else .next (s.raise .notSeeded)

/-- READ_INFO: return the INFO word; it succeeds before seeding (43_inspect.md R193; 10_state.md R28). -/
def execReadInfo (s : State) : Host.Outcome State Fault Refusal := .next (s.succeed (infoWord s.cfg s.seeded))

end Sys2Proof.Machine
end

