-- ==== Sys2Proof/Machine/Recurrence.lean ====
section
/-! DEFINITION. The recurrence stepper and NEXT (40_recurrence.md). -/

namespace Sys2Proof.Machine

/-- *Combine* (40_recurrence.md R101): the high `P` bits of one of the slots `i`, `i1` and the low `64-P` bits of the other. -/
def combine (c : Config) (g : GenState) : Word :=
  match c.splitSource with
  | .indexHigh => (readSlot g g.index.toNat &&& upperMask c.P) ||| (readSlot g (slotAt c g 1) &&& lowerMask c.P)
  | .nextHigh => (readSlot g (slotAt c g 1) &&& upperMask c.P) ||| (readSlot g g.index.toNat &&& lowerMask c.P)

/-- *Twist* (40_recurrence.md R102). -/
def twist (c : Config) (combined : Word) : Word := if combined.getLsbD 0 then c.matrixA else 0

/-- *Lung update*: `lung'`, from the state before the step (40_recurrence.md R103). -/
def newLung (c : Config) (g : GenState) : Word :=
  (combine c g >>> 1) ^^^ twist c (combine c g) ^^^ readSlot g (slotAt c g c.M) ^^^ xsl c.A1 g.lung

/-- *Slot write*: the word written to slot `i` (40_recurrence.md R104). -/
def newSlot (c : Config) (g : GenState) : Word := combine c g ^^^ xsr c.A2 (newLung c g)

/-- The state after a step: slot `i`, `lung` and `index` written (40_recurrence.md R103, R104, R106). -/
def stepState (c : Config) (g : GenState) : GenState :=
  setIndex (setLung (writeSlot g g.index.toNat (newSlot c g)) (newLung c g)) (slotAt c g 1)

/-- *Tempered output*, from the slot just written and the slot `L` further on (40_recurrence.md R105). -/
def stepOutput (c : Config) (g : GenState) : Word :=
  xsl c.shift (newSlot c g) ^^^ (readSlot (stepState c g) (slotAt c g c.L) &&& c.mask)

/-- `step(S) = (S', out)` (40_recurrence.md R100, R107). Total; it has no failure mode. -/
def recurrenceStep (c : Config) (g : GenState) : GenState × Word := (stepState c g, stepOutput c g)

/-- NEXT: step the generator and return one output word (40_recurrence.md R110). -/
def execNext (s : State) : Host.Outcome State Fault Refusal :=
  if s.seeded then
    let r := recurrenceStep s.cfg s.gen
    .next ((s.loadGen r.1).succeed r.2)
  else .next (s.raise .notSeeded)

end Sys2Proof.Machine
end

