-- ==== Sys2Proof/Machine/JumpMerge.lean ====
section
/-! DEFINITION. The state merge, the jump-ahead evaluator and JUMP (42_jump_merge.md). -/

namespace Sys2Proof.Machine

/-- The alignment of a merge, `d = (b.index - a.index) mod N` (42_jump_merge.md R160). -/
def mergeOffset (c : Config) (a b : GenState) : Nat := intMod ((b.index.toNat : Int) - (a.index.toNat : Int)) c.N

/-- `merge(a, b)`: the GF(2) sum of two states, aligned by their indices, at `a`'s index (42_jump_merge.md R160, R161). -/
def merge (c : Config) (a b : GenState) : GenState :=
  { words := (List.range c.N).map fun i => readSlot a i ^^^ readSlot b ((i + mergeOffset c a b) % c.N)
    lung := a.lung ^^^ b.lung
    index := a.index }

/-- A jump starts: `ACC` is the zero state at `S`'s index and `T` is `S` (42_jump_merge.md R164). -/
def jumpStart (c : Config) (g : GenState) : JumpWork := { acc := zeroGen c g.index, t := g, k := 0 }

/-- One polynomial bit: if `PolyBit(k) = 1` the work state is merged into `ACC`; then the work state is stepped, its output
discarded (42_jump_merge.md R164). -/
def jumpBit (c : Config) (digits : List Char) (w : JumpWork) : JumpWork :=
  { acc := if polyBit digits w.k then merge c w.acc w.t else w.acc
    t := (recurrenceStep c w.t).1
    k := w.k + 1 }

/-- `jump(S)`: `ACC` after all `4·D` bits (42_jump_merge.md R164, R165). -/
def jump (c : Config) (digits : List Char) (g : GenState) : GenState :=
  ((jumpBit c digits)^[polyBits digits] (jumpStart c g)).acc

/-- One polynomial bit on the block's sequencing state (10_state.md R26, R31, R32). -/
def State.onJumping (f : JumpWork → JumpWork) (s : State) : State :=
  match s.sequencer with
  | .jumping w => s.setSequencer (.jumping (f w))
  | .idle => s
  | .seeding _ => s

/-- A jump ends: `S` takes `ACC` in one assignment, and `ACC`, `T` and `k` cease to exist (10_state.md R31, R32;
42_jump_merge.md R169). -/
def State.finishJump (s : State) : State :=
  match s.sequencer with
  | .jumping w => (s.loadGen w.acc).setSequencer .idle
  | .idle => s
  | .seeding _ => s

/-- The jump on the block's state: `ACC`, `T` and `k` stand in the sequencer while it runs (10_state.md R31, R32). -/
def State.runJump (s : State) (digits : List Char) : State :=
  ((State.onJumping (jumpBit s.cfg digits))^[polyBits digits]
    (s.setSequencer (.jumping (jumpStart s.cfg s.gen)))).finishJump

/-- JUMP: `S <- jump(S)`; a configuration without a polynomial is reported before an unseeded block (42_jump_merge.md R166,
R168; 60_exceptions.md R217). -/
def execJump (s : State) : Host.Outcome State Fault Refusal :=
  match s.cfg.jumpPoly with
  | none => .next (s.raise .unsupported)
  | some digits =>
    if s.seeded then .next ((s.runJump digits).succeed 0) else .next (s.raise .notSeeded)

end Sys2Proof.Machine
end

