-- ==== Sys2Proof/Machine/Seeding.lean ====
section
/-! DEFINITION. Scalar seeding, key loading and array seeding (41_seeding.md). -/

namespace Sys2Proof.Machine

/-! ### Constants (00_scope.md R8) -/

/-- `C1`, the scalar seeding multiplier. -/
def seedC1 : Word := 6364136223846793005

/-- `C2`, the array seeding pass 1 multiplier. -/
def seedC2 : Word := 3935559000370003845

/-- `C3`, the array seeding pass 2 and `lung` multiplier. -/
def seedC3 : Word := 2862933555777941757

/-- `SEED_ARRAY_INIT`, the scalar seed of array seeding's first stage. -/
def seedArrayInit : Word := 19650218

/-! ### Scalar seeding -/

/-- `p ^ (p >> 62)` (41_seeding.md R130, R134). -/
def premix (p : Word) : Word := p ^^^ (p >>> 62)

/-- The word that follows `p`, at position `i`: `C1 * (p ^ (p >> 62)) + i` (41_seeding.md R130). -/
def scalarNext (p : Word) (i : Nat) : Word := seedC1 * premix p + zext64 i

/-- The `n` words at positions `i`, `i + 1`, … that follow the word `p` at position `i - 1` (41_seeding.md R130). -/
def scalarTail (p : Word) (i : Nat) : Nat → List Word
  | 0 => []
  | n + 1 => scalarNext p i :: scalarTail (scalarNext p i) (i + 1) n

/-- `S.words` of `seed_scalar(seed)`: slot 0 is the seed unchanged, no bit is forced (41_seeding.md R130; 90_conflicts.md C3). -/
def scalarWords (c : Config) (seed : Word) : List Word := seed :: scalarTail seed 1 (c.N - 1)

/-- `seed_scalar(seed)`: `lung` is the `N`-th application of the same formula (41_seeding.md R130). -/
def seedScalar (c : Config) (seed : Word) : GenState :=
  { words := scalarWords c seed
    lung := scalarNext ((scalarWords c seed).getD (c.N - 1) 0) c.N
    index := 0 }

/-- SEED_SCALAR: `S <- seed_scalar(data)`, legal in every state (41_seeding.md R131). -/
def execSeedScalar (data : Word) (s : State) : Host.Outcome State Fault Refusal :=
  .next ((s.seed (seedScalar s.cfg data)).succeed 0)

/-! ### Key loading -/

/-- KEY_WRITE: write one entry of the key RAM (41_seeding.md R132). -/
def execKeyWrite (j : Nat) (data : Word) (s : State) : Host.Outcome State Fault Refusal :=
  if keyEntryLegal s.cfg j then .next ((s.keyWrite j data).succeed 0)
  else .next (s.raise .invalidArgument)

/-! ### Array seeding -/

/-- *Stage 1*: the scalar pre-seed, then the cursors `i <- 1` and `j <- 0` (41_seeding.md R133). -/
def seedStart (c : Config) : SeedWork := { gen := seedScalar c seedArrayInit, i := 1, j := 0 }

/-- The buffer cursor advances: `i <- i + 1; if i >= N: w[0] <- w[N-1]; i <- 1` (41_seeding.md R134, R135). -/
def advanceBuffer (c : Config) (w : SeedWork) : SeedWork :=
  if c.N ≤ w.i + 1 then { w with gen := writeSlot w.gen 0 (readSlot w.gen (c.N - 1)), i := 1 }
  else { w with i := w.i + 1 }

/-- The key cursor advances: `j <- j + 1; if j >= len: j <- 0` (41_seeding.md R134). -/
def advanceKey (len : Nat) (w : SeedWork) : SeedWork := if len ≤ w.j + 1 then { w with j := 0 } else { w with j := w.j + 1 }

/-- The nonlinear fold of the word before the cursor, `w[i] ^ ((p ^ (p >> 62)) * mult)` (41_seeding.md R134, R135). -/
def foldAt (mult : Word) (w : SeedWork) : Word :=
  readSlot w.gen w.i ^^^ (premix (readSlot w.gen (w.i - 1)) * mult)

/-- One iteration of *stage 2, pass 1*: `w[i] <- fold + KeyRead(j) + j`, then both cursors advance (41_seeding.md R134). -/
def seedPass1 (c : Config) (key : List Word) (len : Nat) (w : SeedWork) : SeedWork :=
  advanceKey len (advanceBuffer c
    { w with gen := writeSlot w.gen w.i (foldAt seedC2 w + keyRead key w.j + zext64 w.j) })

/-- One iteration of *stage 3, pass 2*: `w[i] <- fold - i`, then the buffer cursor advances (41_seeding.md R135). -/
def seedPass2 (c : Config) (w : SeedWork) : SeedWork :=
  advanceBuffer c { w with gen := writeSlot w.gen w.i (foldAt seedC3 w - zext64 w.i) }

/-- *Stages 4 to 6*: fold `lung` against `w[N-1]` and `-N`, force the top bit of `w[0]` by a bitwise OR, `index <- 0`
(41_seeding.md R136, R137, R138). -/
def seedFinish (c : Config) (w : SeedWork) : GenState :=
  let g := setLung w.gen ((w.gen.lung ^^^ (premix (readSlot w.gen (c.N - 1)) * seedC3)) - zext64 c.N)
  setIndex (writeSlot g 0 (readSlot g 0 ||| 0x8000000000000000)) 0

/-- `seed_array(key, len)` (41_seeding.md R133 to R138): `max(N, len)` iterations of pass 1, then `N - 1` of pass 2. -/
def seedArray (c : Config) (key : List Word) (len : Nat) : GenState :=
  seedFinish c ((seedPass2 c)^[c.N - 1] ((seedPass1 c key len)^[max c.N len] (seedStart c)))

/-- An iteration of a seeding pass on the block's sequencing state (10_state.md R26). -/
def State.onSeeding (f : SeedWork → SeedWork) (s : State) : State :=
  match s.sequencer with
  | .seeding w => s.setSequencer (.seeding (f w))
  | .idle => s
  | .jumping _ => s

/-- Array seeding ends: `S` takes the finished state in one assignment, `seeded <- 1`, and the cursors cease to exist
(41_seeding.md R139; 10_state.md R26). -/
def State.finishSeeding (s : State) : State :=
  match s.sequencer with
  | .seeding w => (s.seed (seedFinish s.cfg w)).setSequencer .idle
  | .idle => s
  | .jumping _ => s

/-- Array seeding on the block's state: the working state and the cursors stand in the sequencer while it runs. The key RAM
is read as it stands when the command starts (20_memory.md R67; 41_seeding.md R133 to R139). -/
def State.runSeedArray (s : State) (len : Nat) : State :=
  ((State.onSeeding (seedPass2 s.cfg))^[s.cfg.N - 1]
    ((State.onSeeding (seedPass1 s.cfg s.key len))^[max s.cfg.N len]
      (s.setSequencer (.seeding (seedStart s.cfg))))).finishSeeding

/-- SEED_ARRAY: `S <- seed_array(key, len)`; the range of `len` is checked before the valid bits (41_seeding.md R139;
60_exceptions.md R217). -/
def execSeedArray (len : Nat) (s : State) : Host.Outcome State Fault Refusal :=
  if keyLengthLegal s.cfg len then
    if keyWritten s len then .next ((s.runSeedArray len).succeed 0)
    else .next (s.raise .keyUnwritten)
  else .next (s.raise .invalidArgument)

end Sys2Proof.Machine
end

