-- ==== Sys2Proof/Machine/Dispatch.lean ====
section
/-! DEFINITION. One arm per command of the opcode map (30_encoding.md R75). -/

namespace Sys2Proof.Machine

def exec (i : Instr) (s : State) : Host.Outcome State Fault Refusal :=
  match i with
  | .seedScalar data => Sys2Proof.Machine.execSeedScalar data s
  | .keyWrite j data => Sys2Proof.Machine.execKeyWrite j data s
  | .seedArray len => Sys2Proof.Machine.execSeedArray len s
  | .next => Sys2Proof.Machine.execNext s
  | .jump => Sys2Proof.Machine.execJump s
  | .readWord slot => Sys2Proof.Machine.execReadWord slot s
  | .readLung => Sys2Proof.Machine.execReadLung s
  | .readIndex => Sys2Proof.Machine.execReadIndex s
  | .readInfo => Sys2Proof.Machine.execReadInfo s

end Sys2Proof.Machine
end

