-- ==== Sys2Proof/Machine/HostPort.lean ====
section
/-! DEFINITION. The host's side of a step: the handshake (30_encoding.md R82), reset (70_reset_and_hazards.md R250, R253)
and the state between requests (60_exceptions.md R229) [log 4]. -/

namespace Sys2Proof.Machine

/-- The host's remaining events become `rest`. -/
def State.setInputs (s : State) (rest : List HostEvent) : State := { s with inputs := rest }

/-- The block accepts a request: its command is in progress until the response is delivered (30_encoding.md R82). -/
def State.accept (s : State) (r : Request) (rest : List HostEvent) : State :=
  { s with pending := some r, inputs := rest }

/-- Reset is asserted: a command in progress is abandoned without a response, and every piece of state takes its reset value;
the record stays as built (70_reset_and_hazards.md R250, R253; 10_state.md R38). The responses already delivered stay in the
run's observation (R257, R258). -/
def State.hostReset (s : State) (rest : List HostEvent) : State :=
  { State.resetWith s.cfg with inputs := rest, responses := s.responses }

/-- What one transition does before any command is decoded. -/
inductive Turn where
  /-- No command runs in this transition; the next state is `s`. -/
  | goes (s : State)
  /-- The command in progress, of request `r`, runs to completion from `s`. -/
  | runs (r : Request) (s : State)
  /-- The model refuses the run. -/
  | refuses (x : Refusal)
  /-- The model stops. -/
  | faults (x : Fault)
deriving DecidableEq, Repr

/-- The host's next event meets the block (30_encoding.md R82, R83). With a command in progress, a reset abandons it
(70_reset_and_hazards.md R253), a further request breaks the handshake (R82), and a waiting host, or one that does nothing
more, lets it complete. With none in progress, a request is accepted, a reset resets, and with no event the block is idle and
keeps every piece of state (60_exceptions.md R229). -/
def hostTurn (s : State) : Turn :=
  match s.pending, s.inputs with
  | none, [] => .goes s
  | none, .request r :: rest => .goes (s.accept r rest)
  | none, .wait :: rest => .goes (s.setInputs rest)
  | none, .reset :: rest => .goes (s.hostReset rest)
  | some r, [] => .runs r s
  | some _, .request _ :: _ => .refuses .handshakeBroken
  | some r, .wait :: rest => .runs r (s.setInputs rest)
  | some _, .reset :: rest => .goes (s.hostReset rest)

/-- An ill-formed record is refused before any command runs (00_scope.md R7); a datum that is no state of the block stops
the model [log 7]; else the host's next event decides. -/
def turn (s : State) : Turn :=
  if s.cfg.WellFormed then
    if s.WellFormed then hostTurn s else .faults .malformedState
  else .refuses .illFormedConfiguration

/-- A request that spells no command fails with `E_ILLEGAL_COMMAND` and changes nothing (30_encoding.md R76, R77;
60_exceptions.md R212). -/
def rejectRequest (s : State) : State := s.raise .illegalCommand

/-- The host issues a request to an idle block and waits for the response, before anything else it does [log 3]. -/
def State.issue (s : State) (r : Request) : State := { s with pending := some r, inputs := .wait :: s.inputs }

end Sys2Proof.Machine
end

