-- ==== Sys2Proof/Machine/Step.lean ====
section
/-! DEFINITION. One transition of the machine (00_scope.md R3; 20_memory.md R58). -/

namespace Sys2Proof.Machine

/-- The command in progress is decoded and executed to completion, or answered as illegal (30_encoding.md R78). -/
def runRequest (r : Request) (s : State) : Host.Outcome State Fault Refusal :=
  match decode r with
  | .ok i => exec i s
  | .error _ => .next (rejectRequest s)

/-- One transition: the host's next event, or the command in progress as one atomic transition (30_encoding.md R82). -/
def step (s : State) : Host.Outcome State Fault Refusal :=
  match turn s with
  | .goes s' => .next s'
  | .runs r s' => runRequest r s'
  | .refuses x => .refused x
  | .faults x => .fault x

/-- The host has issued the request whose bits are the `nbits` low bits of `w`, and waits for its response: the next step
runs it. The block fetches nothing (10_state.md R26) [log 3]. -/
def State.withFetchWord (s : State) (nbits w : Nat) : State := s.issue (requestOfBits (w % 2 ^ nbits))

end Sys2Proof.Machine
end

