-- ==== Sys2Proof/Machine/Assembler.lean ====
section
/-! DEFINITION. The assembler: the assembly lines of 30_encoding.md R80 and the pseudo-instruction `SEED_KEY` (R81), from
characters to requests. -/

namespace Sys2Proof.Machine

/-- A line of assembly (30_encoding.md R80, R81). -/
inductive AsmLine where
  /-- Nothing but blanks or a comment. -/
  | blank
  /-- One of the nine commands. -/
  | command (i : Instr)
  /-- `.word <cmd>[, <data>]`: a raw request. -/
  | rawWord (cmd data : Nat)
  /-- `SEED_KEY k_0, …, k_{n-1}`. -/
  | seedKey (keys : List Nat)
deriving DecidableEq, Repr

/-- A token of a line: a run of characters, or the comma between operands. -/
inductive AsmToken where
  | text (chars : List Char)
  | comma
deriving DecidableEq, Repr

/-- A pending run of characters becomes a token, unless it is empty. -/
def flushToken (run : List Char) (rest : List AsmToken) : List AsmToken :=
  if run.isEmpty then rest else .text run :: rest

/-- The tokens of a line: blanks separate, a comma is a token, `;` starts a comment (30_encoding.md R80). `run` holds the
characters of the token being read. -/
def tokens (run : List Char) : List Char → List AsmToken
  | [] => flushToken run []
  | ch :: rest =>
    if ch = ';' then flushToken run []
    else if ch = ',' then flushToken run (.comma :: tokens [] rest)
    else if ch = ' ' ∨ ch = '\t' then flushToken run (tokens [] rest)
    else tokens (run ++ [ch]) rest

/-- A number in a base, its digits read left to right; `none` if there is a character that is no digit of the base. -/
def digitsValue (base : Nat) : Nat → List Char → Option Nat
  | acc, [] => some acc
  | acc, ch :: rest =>
    match hexValue ch with
    | some d => if d < base then digitsValue base (acc * base + d) rest else none
    | none => none

/-- A number: decimal, or hexadecimal with a `0x` prefix (30_encoding.md R80). -/
def numberValue : List Char → Option Nat
  | [] => none
  | '0' :: 'x' :: ch :: rest => digitsValue 16 0 (ch :: rest)
  | ch :: rest => digitsValue 10 0 (ch :: rest)

/-- Operands, separated by commas. -/
def operandValues : List AsmToken → Option (List Nat)
  | [] => some []
  | [.text t] => (numberValue t).map ([·])
  | .text t :: .comma :: rest =>
    match rest with
    | [] => none
    | _ => do
      let n ← numberValue t
      let ns ← operandValues rest
      return n :: ns
  | _ => none

/-- A line whose mnemonic is `name`, with its operands (30_encoding.md R80, R81). A data operand must fit 64 bits: `<data>`
is a 64-bit value. -/
def lineOf (name : List Char) (ops : List Nat) : Option AsmLine :=
  let word (n : Nat) (l : AsmLine) : Option AsmLine := if n < 2 ^ 64 then some l else none
  if name = "SEED_SCALAR".toList then
    match ops with | [d] => word d (.command (.seedScalar (zext64 d))) | _ => none
  else if name = "KEY_WRITE".toList then
    match ops with | [j, d] => word d (.command (.keyWrite j (zext64 d))) | _ => none
  else if name = "SEED_ARRAY".toList then
    match ops with | [len] => some (.command (.seedArray len)) | _ => none
  else if name = "READ_WORD".toList then
    match ops with | [i] => some (.command (.readWord i)) | _ => none
  else if name = "NEXT".toList then if ops.isEmpty then some (.command .next) else none
  else if name = "JUMP".toList then if ops.isEmpty then some (.command .jump) else none
  else if name = "READ_LUNG".toList then if ops.isEmpty then some (.command .readLung) else none
  else if name = "READ_INDEX".toList then if ops.isEmpty then some (.command .readIndex) else none
  else if name = "READ_INFO".toList then if ops.isEmpty then some (.command .readInfo) else none
  else if name = ".word".toList then
    match ops with | [w] => some (.rawWord w 0) | [w, d] => some (.rawWord w d) | _ => none
  else if name = "SEED_KEY".toList then some (.seedKey ops)
  else none

/-- The line spelled by a list of characters; `none` where it spells none (30_encoding.md R80). -/
def parseLine (line : List Char) : Option AsmLine :=
  match tokens [] line with
  | [] => some .blank
  | .text name :: rest => (operandValues rest).bind (lineOf name)
  | .comma :: _ => none

/-- The commands `SEED_KEY k_0, …, k_{n-1}` expands to: `KEY_WRITE j, k_j` for each `j`, then `SEED_ARRAY n`
(30_encoding.md R81). -/
def seedKeyCommands (keys : List Word) : List Instr :=
  keys.mapIdx (fun j k => Instr.keyWrite j k) ++ [.seedArray keys.length]

/-- The requests a line is assembled to; `none` where the assembler refuses it: an immediate of more than 24 bits, a value
that does not fit its word, or a SEED_KEY without `1 ≤ n ≤ KEY_DEPTH` operands (30_encoding.md R80, R81). -/
def assemble (c : Config) : AsmLine → Option (List Request)
  | .blank => some []
  | .command i => if i.wellFormed then some [encode i] else none
  | .rawWord cmd data => if cmd < 2 ^ 32 ∧ data < 2 ^ 64 then some [⟨BitVec.ofNat 32 cmd, zext64 data⟩] else none
  | .seedKey keys =>
    if keyLengthLegal c keys.length ∧ keys.all (fun k => decide (k < 2 ^ 64)) then
      some ((seedKeyCommands (keys.map zext64)).map encode)
    else none

/-- What a host does with the requests of a program: each is issued, and its response waited for (30_encoding.md R82, R83). -/
def hostProgram (requests : List Request) : List HostEvent := requests.flatMap fun r => [.request r, .wait]

end Sys2Proof.Machine
end

