-- ==== Sys2Proof/Machine/Platform.lean ====
section
/-! DEFINITION. A platform of several block instances, which share nothing (10_state.md R39; 60_exceptions.md R227). -/

namespace Sys2Proof.Machine

/-- A transition of instance `k` of a platform: each instance has its own state, record, key RAM and command port, and no
instance has an identifier or signals another (60_exceptions.md R227). Three points the spec leaves open are the model's
[log 12]: which instance moves is given from outside (DEDUCED); a number that names no instance changes nothing (DESIGN
CHOICE); and a transition in which instance `k` is refused or faults ends the whole platform's run, so that no other instance
goes on, where the spec refuses the run of the one block only (R82, R257) (DESIGN CHOICE, safe). -/
def platformStep (p : List State) (k : Nat) : Host.Outcome (List State) Fault Refusal :=
  match p[k]? with
  | none => .next p
  | some s =>
    match step s with
    | .next s' => .next (p.set k s')
    | .fault r => .fault r
    | .refused r => .refused r

/-- Each instance starts at reset, with the record it was built with (60_exceptions.md R227; 70_reset_and_hazards.md R250). -/
def platformReset (configs : List Config) : List State := configs.map State.resetWith

end Sys2Proof.Machine
end

