-- ==== Sys2Proof/Machine/Views.lean ====
section
/-! DEFINITION. Functions of the state that the spec defines and no command stores: the logical view (10_state.md R36), the
phase (40_recurrence.md R109), the all-zero state (10_state.md R34; 60_exceptions.md R230), the state after `k` steps, and
the observation of a run (70_reset_and_hazards.md R257). -/

namespace Sys2Proof.Machine

/-- Logical word `X_j = S.words[(S.index + j) mod N]` (10_state.md R36; 00_scope.md R12). -/
def logicalWord (c : Config) (g : GenState) (j : Nat) : Word := readSlot g (slotAt c g j)

/-- The logical view: `X_0, …, X_{N-1}`, then `S.lung` (10_state.md R36). -/
def logicalView (c : Config) (g : GenState) : List Word × Word := ((List.range c.N).map (logicalWord c g), g.lung)

/-- The phase of an index, 1 to 4: a diagnostic function that no rule's effect depends on (40_recurrence.md R109). -/
def phase (c : Config) (index : Nat) : Nat :=
  if index = c.N - 1 then 4
  else if index < min (c.N - c.M) (c.N - c.L) then 1
  else if index < max (c.N - c.M) (c.N - c.L) then 2
  else 3

/-- `step^k(S)`, the state `k` steps on (42_jump_merge.md R165). -/
def stepped (c : Config) (k : Nat) (g : GenState) : GenState := (stepState c)^[k] g

/-- The first `n` output words NEXT returns from `S` (10_state.md R36). -/
def outputs (c : Config) : Nat → GenState → List Word
  | 0, _ => []
  | n + 1, g => stepOutput c g :: outputs c n (stepState c g)

/-- The GF(2) sum of two states of one index, slot by slot (40_recurrence.md R108). -/
def xorGen (c : Config) (a b : GenState) : GenState :=
  { words := (List.range c.N).map fun i => readSlot a i ^^^ readSlot b i, lung := a.lung ^^^ b.lung, index := a.index }

/-- Two states agree on all live bits: their logical views are equal but, where the high `P` bits come from `words[index]`, for
the low `64-P` bits of `X_0`, which no rule reads before the next step overwrites them (10_state.md R36). -/
def sameLive (c : Config) (a b : GenState) : Prop :=
  logicalWord c a 0 &&& upperMask c.P = logicalWord c b 0 &&& upperMask c.P ∧
  (∀ j, 1 ≤ j → j < c.N → logicalWord c a j = logicalWord c b j) ∧ a.lung = b.lung

/-- What the outside sees of a run that has ended: the responses, and the final state as far as it is defined: `S` if seeded,
`seeded`, and the key entries whose valid bit is set (70_reset_and_hazards.md R257). -/
structure Observation where
  responses : List Response
  seeded : Bool
  gen : Option GenState
  keys : List (Option Word)
deriving DecidableEq, Repr

/-- The key entries with their valid bit set, each at its place; an entry whose valid bit is 0 shows nothing
(70_reset_and_hazards.md R257; 10_state.md R37). -/
def visibleKeys (key : List Word) (valid : List Bool) : List (Option Word) :=
  List.zipWith (fun v b => if b then some v else none) key valid

/-- The observation a state gives (70_reset_and_hazards.md R257). -/
def State.observe (s : State) : Observation :=
  { responses := s.responses
    seeded := s.seeded
    gen := if s.seeded then some s.gen else none
    keys := visibleKeys s.key s.keyValid }

/-- Two states that differ at most in what the spec leaves unspecified: `S` while unseeded and key entries whose valid bit
is 0 (10_state.md R37; 93_implementation_defined.md X3, X4). -/
def State.sameDefined (s t : State) : Prop :=
  s.cfg = t.cfg ∧ s.observe = t.observe ∧ s.keyValid = t.keyValid ∧ s.sequencer = t.sequencer ∧ s.pending = t.pending ∧
  s.inputs = t.inputs

end Sys2Proof.Machine
end

