-- ==== Sys2Proof/Safety.lean ====
section
/-! DEFINITION. What counts as a safe run and what a run shows (70_reset_and_hazards.md R257, R258), and the causes of the
command errors in the spec's own terms (60_exceptions.md R212 to R217), from which no meaning is written: claims compare the
two. -/

namespace Sys2Proof.Safety

open Sys2Proof.Machine

/-! ### Runs -/

/-- The host keeps the handshake in this transition: it issues no request while a command is in progress (30_encoding.md
R82; 70_reset_and_hazards.md R258). -/
def keepsHandshake (s : State) : Prop := ∀ r q rest, s.pending = some r → s.inputs ≠ .request q :: rest

/-- A command in progress that nothing interrupts: the host waits for its response, or does nothing more. -/
def awaitsResponse (s : State) (r : Request) : Prop :=
  s.pending = some r ∧ (s.inputs = [] ∨ ∃ rest, s.inputs = .wait :: rest)

/-- The transition ends in a next state: it is neither refused nor faulted. -/
def completes (s : State) : Prop := ∃ t, step s = .next t

/-- The observation of a run of `n` transitions from `s`; a refused run has none (70_reset_and_hazards.md R257). The rule ends a
run when the response to its last request has been delivered, and leaves open how a run ends whose last request a listed reset
abandons, since no response to it comes (R253). Here any `n` transitions have an observation, DESIGN CHOICE [log 13]: after
such a reset it is that of the state the reset left, with no response for the abandoned request; and a run cut off while a
command is in progress shows the responses delivered so far and the state before that command. -/
def observeRun (n : Nat) (s : State) : Option Observation :=
  match Sys2Proof.core.run n s with
  | .next t => some (State.observe t)
  | .fault _ => none
  | .refused _ => none

/-- The left-to-right composition of the transitions of a command sequence, each request decoded and executed, or answered as
illegal, in the state the ones before it left (20_memory.md R62). -/
def composition : List Request → State → Host.Outcome State Fault Refusal
  | [], s => .next s
  | r :: rs, s =>
    match runRequest r s with
    | .next t => composition rs t
    | .fault x => .fault x
    | .refused x => .refused x

/-- `resp` is the one response that request `r` is answered with in the state `s` (20_memory.md R62; 30_encoding.md R70). -/
def answeredWith (s : State) (r : Request) (resp : Response) : Prop :=
  ∃ t, runRequest r s = .next t ∧ t.responses = s.responses ++ [resp]

/-! ### Causes of errors -/

/-- A command word that is no legal encoding: `op` is `0x00` or in `0x0A` to `0xFF`, or it is one of SEED_SCALAR, NEXT, JUMP,
READ_LUNG, READ_INDEX and READ_INFO and `imm ≠ 0` (60_exceptions.md R212). -/
def illegalWord (w : BitVec 32) : Prop :=
  (w >>> 24 = 0x00 ∨ 0x0A ≤ w >>> 24) ∨
  ((w >>> 24 = 0x01 ∨ w >>> 24 = 0x04 ∨ w >>> 24 = 0x05 ∨ w >>> 24 = 0x07 ∨ w >>> 24 = 0x08 ∨ w >>> 24 = 0x09) ∧
    w &&& 0x00FFFFFF ≠ 0)

/-- An immediate out of range (60_exceptions.md R213). -/
def badArgument (c : Config) : Instr → Prop
  | .keyWrite j _ => c.keyDepth ≤ j
  | .seedArray len => len = 0 ∨ c.keyDepth < len
  | .readWord i => c.N ≤ i
  | .seedScalar _ | .next | .jump | .readLung | .readIndex | .readInfo => False

/-- JUMP on a configuration without a jump polynomial (60_exceptions.md R214). -/
def lacksJump (c : Config) : Instr → Prop
  | .jump => c.jumpPoly = none
  | .seedScalar _ | .keyWrite _ _ | .seedArray _ | .next | .readWord _ | .readLung | .readIndex | .readInfo => False

/-- NEXT, JUMP, READ_WORD, READ_LUNG or READ_INDEX while `seeded = 0` (60_exceptions.md R215). -/
def lacksSeed (seeded : Bool) : Instr → Prop
  | .next | .jump | .readWord _ | .readLung | .readIndex => seeded = false
  | .seedScalar _ | .keyWrite _ _ | .seedArray _ | .readInfo => False

/-- SEED_ARRAY while `key_valid[j] = 0` for some `j < len` (60_exceptions.md R216). -/
def lacksKey (keyValid : List Bool) : Instr → Prop
  | .seedArray len => ∃ j < len, keyValid[j]? ≠ some true
  | .seedScalar _ | .keyWrite _ _ | .next | .jump | .readWord _ | .readLung | .readIndex | .readInfo => False

/-- The status a command is answered with: the first of the errors that applies, in the order of 60_exceptions.md R217, or
success. -/
def statusFor (i : Instr) (s : State) (st : BitVec 8) : Prop :=
  (badArgument s.cfg i ∧ st = 0x02) ∨
  (¬badArgument s.cfg i ∧ lacksJump s.cfg i ∧ st = 0x03) ∨
  (¬badArgument s.cfg i ∧ ¬lacksJump s.cfg i ∧ lacksSeed s.seeded i ∧ st = 0x04) ∨
  (¬badArgument s.cfg i ∧ ¬lacksJump s.cfg i ∧ ¬lacksSeed s.seeded i ∧ lacksKey s.keyValid i ∧ st = 0x05) ∨
  (¬badArgument s.cfg i ∧ ¬lacksJump s.cfg i ∧ ¬lacksSeed s.seeded i ∧ ¬lacksKey s.keyValid i ∧ st = 0x00)

end Sys2Proof.Safety
end

