-- ==== Sys2Proof/Certificates/Slice0/Obligations.lean ====
section
/-! DEFINITION. The statements for the provers. Each docstring names the rule of spec/ it comes from. -/

open Sys2Proof Sys2Proof.Machine Sys2Proof.Safety

/-! ### Encoding -/

/-- Every well-formed command's request decodes to that command, every operand at every value (R71, R72, R75, R80). -/
def Obligations.DecodeOfEncodeIsIdentity : Prop :=
  ∀ i : Instr, i.wellFormed = true → decode (encode i) = .ok i

/-- R75: a command word spells a row's command exactly if `(w & mask) == match`, with the row's `imm` and `data` operands. -/
def Obligations.DecodeFollowsOpcodeMap : Prop :=
  ∀ r : Request,
    (∀ d, decode r = .ok (.seedScalar d) ↔ r.cmd &&& 0xFFFFFFFF = 0x01000000 ∧ d = r.data) ∧
    (∀ j d, decode r = .ok (.keyWrite j d) ↔
      r.cmd &&& 0xFF000000 = 0x02000000 ∧ j = (r.cmd &&& 0x00FFFFFF).toNat ∧ d = r.data) ∧
    (∀ len, decode r = .ok (.seedArray len) ↔ r.cmd &&& 0xFF000000 = 0x03000000 ∧ len = (r.cmd &&& 0x00FFFFFF).toNat) ∧
    (decode r = .ok .next ↔ r.cmd &&& 0xFFFFFFFF = 0x04000000) ∧
    (decode r = .ok .jump ↔ r.cmd &&& 0xFFFFFFFF = 0x05000000) ∧
    (∀ i, decode r = .ok (.readWord i) ↔ r.cmd &&& 0xFF000000 = 0x06000000 ∧ i = (r.cmd &&& 0x00FFFFFF).toNat) ∧
    (decode r = .ok .readLung ↔ r.cmd &&& 0xFFFFFFFF = 0x07000000) ∧
    (decode r = .ok .readIndex ↔ r.cmd &&& 0xFFFFFFFF = 0x08000000) ∧
    (decode r = .ok .readInfo ↔ r.cmd &&& 0xFFFFFFFF = 0x09000000)

/-- R78: every command word either matches exactly one row of the opcode map or is illegal by R76 or R77, and the decoder
refuses exactly the illegal ones. -/
def Obligations.DecodingIsTotalAndUnique : Prop :=
  ∀ r : Request,
    ((opcodeTable.filter (fun row => row.spells r.cmd)).length = 1 ∧ ¬illegalWord r.cmd ∧ ∃ i, decode r = .ok i) ∨
    ((opcodeTable.filter (fun row => row.spells r.cmd)).length = 0 ∧ illegalWord r.cmd ∧ ∃ e, decode r = .error e)

/-- Sanity: words written out from the opcode map decode to the commands they stand for. -/
def Obligations.WrittenWordsDecode : Prop :=
  decode ⟨0x01000000, 7⟩ = .ok (.seedScalar 7) ∧ decode ⟨0x02000003, 0x45678⟩ = .ok (.keyWrite 3 0x45678) ∧
  decode ⟨0x03FFFFFF, 0⟩ = .ok (.seedArray 16777215) ∧ decode ⟨0x04000000, 5⟩ = .ok .next ∧
  decode ⟨0x06000102, 0⟩ = .ok (.readWord 258) ∧ decode ⟨0x0A000000, 0⟩ = .error (.reservedOpcode 0x0A) ∧
  decode ⟨0x04000001, 0⟩ = .error (.reservedImmediate 0x04 1)

/-! ### The machine: a step, the handshake, reset -/

/-- A step runs the decoded command: with a command in progress that nothing interrupts, the step is `exec` of the command
its request spells, the host's wait being over (R82). -/
def Obligations.StepRunsDecodedCommand : Prop :=
  ∀ (s : State) (r : Request) (i : Instr), s.Inv → awaitsResponse s r → decode r = .ok i →
    step s = exec i { s with inputs := s.inputs.tail }

/-- `withFetchWord` is the host issuing a request and waiting, the model's own way to hand the block a command [log 3]: the
very next step runs the command whose word it is given (R26, R82). -/
def Obligations.IssuedWordRuns : Prop :=
  ∀ (s : State) (w : Nat) (i : Instr), s.Inv → decodeTableWord 32 w = some i →
    step (s.withFetchWord 32 w) = exec i { s with pending := some ⟨BitVec.ofNat 32 w, 0⟩ }

/-- R73: SEED_SCALAR takes `data` as its seed and KEY_WRITE as its key value; under every other opcode `data` has no effect on
any state or response. -/
def Obligations.DataReachesTwoCommandsOnly : Prop :=
  (∀ d, decode ⟨0x01000000, d⟩ = .ok (.seedScalar d)) ∧
  (∀ w d, w &&& 0xFF000000 = 0x02000000 → ∃ j, decode ⟨w, d⟩ = .ok (.keyWrite j d)) ∧
  ∀ (s : State) (w : BitVec 32) (d e : Word), s.Inv → awaitsResponse s ⟨w, d⟩ → w >>> 24 ≠ 0x01 → w >>> 24 ≠ 0x02 →
    step s = step { s with pending := some ⟨w, e⟩ }

/-- R76, R77, R212: an illegal command word is answered with status `0x01` and `rdata = 0`, and nothing else changes; so it
comes before every other error (R217). -/
def Obligations.IllegalWordIsAnswered : Prop :=
  ∀ (s : State) (r : Request), s.Inv → awaitsResponse s r → illegalWord r.cmd →
    step s = .next { s with inputs := s.inputs.tail, pending := none, responses := s.responses ++ [⟨0x01, 0⟩] }

/-- R229: an idle block with nothing to do keeps every piece of state. R82: an idle block accepts a request, whose command is
then in progress. That the host's events stand in a list, that accepting a request is a step of its own, before the one that
runs its command, and that a wait with no command in progress is over at once are the model's choice, DESIGN CHOICE [log 4]. -/
def Obligations.IdleBlockAcceptsRequests : Prop :=
  ∀ s : State, s.Inv → s.pending = none →
    (s.inputs = [] → step s = .next s) ∧
    (∀ r rest, s.inputs = .request r :: rest → step s = .next { s with pending := some r, inputs := rest }) ∧
    (∀ rest, s.inputs = .wait :: rest → step s = .next { s with inputs := rest })

/-- R82: a request issued before the previous response is refused, and nothing else a host does is. -/
def Obligations.HandshakeBreachIsRefused : Prop :=
  ∀ s : State, s.Inv →
    (step s = .refused .handshakeBroken ↔ ∃ r q rest, s.pending = some r ∧ s.inputs = .request q :: rest)

/-- R7: a record that is not within the ranges is refused before any command runs. -/
def Obligations.IllFormedRecordIsRefused : Prop :=
  ∀ s : State,
    ¬((2 ≤ s.cfg.N ∧ s.cfg.N ≤ 2 ^ 24 - 1) ∧ (1 ≤ s.cfg.M ∧ s.cfg.M ≤ s.cfg.N - 1) ∧ (1 ≤ s.cfg.L ∧ s.cfg.L ≤ s.cfg.N - 1) ∧
      (1 ≤ s.cfg.P ∧ s.cfg.P ≤ 63) ∧ (1 ≤ s.cfg.A1 ∧ s.cfg.A1 ≤ 63) ∧ (1 ≤ s.cfg.A2 ∧ s.cfg.A2 ≤ 63) ∧
      (1 ≤ s.cfg.shift ∧ s.cfg.shift ≤ 63) ∧ (1 ≤ s.cfg.keyDepth ∧ s.cfg.keyDepth ≤ 2 ^ 24 - 1) ∧
      (∀ digits, s.cfg.jumpPoly = some digits → 1 ≤ digits.length ∧
        (∀ ch ∈ digits, (48 ≤ ch.toNat ∧ ch.toNat ≤ 57) ∨ (97 ≤ ch.toNat ∧ ch.toNat ≤ 102) ∨ (65 ≤ ch.toNat ∧ ch.toNat ≤ 70)) ∧
        ∃ ch ∈ digits, ch ≠ '0')) →
    step s = .refused .illFormedConfiguration

/-- R250, R253: a reset, also during a command, clears `seeded` and every valid bit, leaves the block idle, and delivers no
response for a command it abandons; nothing that is defined afterwards depends on what was in progress or in storage. -/
def Obligations.ResetClearsAndAbandons : Prop :=
  ∀ (s : State) (rest : List HostEvent), s.Inv → s.inputs = .reset :: rest →
    ∃ t, step s = .next t ∧ t.seeded = false ∧ t.keyValid = List.replicate s.cfg.keyDepth false ∧ t.sequencer = .idle ∧
      t.pending = none ∧ t.responses = s.responses ∧ t.cfg = s.cfg ∧ t.inputs = rest ∧
      ∀ u : State, u.Inv → u.cfg = s.cfg → u.inputs = s.inputs → u.responses = s.responses →
        ∃ v, step u = .next v ∧ t.sameDefined v

/-- R38, for what it specifies: after reset `seeded` is 0, every valid bit is 0, no sequencer is busy, no command is in
progress, and the INFO word shows the record and `SEEDED = 0`. -/
def Obligations.ResetValues : Prop :=
  ∀ c : Config,
    (State.resetWith c).seeded = false ∧ (∀ j, j < c.keyDepth → (State.resetWith c).keyValid[j]? = some false) ∧
    (State.resetWith c).keyValid.length = c.keyDepth ∧ (State.resetWith c).sequencer = .idle ∧
    (State.resetWith c).pending = none ∧ (State.resetWith c).cfg = c ∧
    infoWord c (State.resetWith c).seeded =
      (BitVec.ofNat 64 c.N ||| (if c.jumpPoly.isSome then 0x1000000 else 0)) ||| BitVec.ofNat 64 c.keyDepth <<< 32

/-- R251: after reset SEED_SCALAR, KEY_WRITE of a legal entry and READ_INFO succeed, and NEXT, JUMP, READ_WORD, READ_LUNG and
READ_INDEX fail with `E_NOT_SEEDED`, JUMP where the record has a polynomial and READ_WORD of a legal slot. -/
def Obligations.CommandsAfterReset : Prop :=
  ∀ c : Config, c.WellFormed →
    let status (i : Instr) (st : BitVec 8) : Prop :=
      ∃ t rd, exec i (State.resetWith c) = .next t ∧ t.responses = [⟨st, rd⟩]
    (∀ d, status (.seedScalar d) 0x00) ∧ (∀ j d, j < c.keyDepth → status (.keyWrite j d) 0x00) ∧ status .readInfo 0x00 ∧
    status .next 0x04 ∧ (c.jumpPoly.isSome = true → status .jump 0x04) ∧ (∀ i, i < c.N → status (.readWord i) 0x04) ∧
    status .readLung 0x04 ∧ status .readIndex 0x04

/-! ### Invariants of every step -/

/-- The invariant holds at `State.reset`, and right after reset of a block with any well-formed record. -/
def Obligations.InvariantAtReset : Prop :=
  State.Inv State.reset ∧ ∀ c : Config, c.WellFormed → State.Inv (State.resetWith c)

/-- Every step keeps the invariant: the storage spaces keep their sizes, `index` stays below `N` while seeded (R33), and no
sequencer stays busy (R31, R32). -/
def Obligations.StepKeepsInvariant : Prop :=
  ∀ s t : State, s.Inv → step s = .next t → t.Inv

/-- R6, R29: no step changes the configuration record. -/
def Obligations.StepKeepsRecord : Prop :=
  ∀ s t : State, step s = .next t → t.cfg = s.cfg

/-- R255 (every command ends), R258: a step of a state of the block whose host keeps the handshake ends in a next state. -/
def Obligations.StepCompletesUnderHandshake : Prop :=
  ∀ s : State, s.Inv → keepsHandshake s → completes s

/-- R37, R38: what stands in `S` while unseeded, and in key entries whose valid bit is 0, is never observed: two states that
differ in nothing else take steps that answer alike and again differ in nothing else. -/
def Obligations.UnspecifiedContentsAreUnobservable : Prop :=
  ∀ s t : State, s.Inv → t.Inv → s.sameDefined t →
    (∃ s' t', step s = .next s' ∧ step t = .next t' ∧ s'.sameDefined t') ∨
    (∃ x, step s = .refused x ∧ step t = .refused x)

/-- R39, R227: a transition of one instance changes no other. -/
def Obligations.InstancesShareNothing : Prop :=
  ∀ (p q : List State) (k : Nat), platformStep p k = .next q →
    q.length = p.length ∧ (∀ j, j ≠ k → q[j]? = p[j]?) ∧ ∀ s, p[k]? = some s → ∃ t, step s = .next t ∧ q[k]? = some t

/-- R62, R70, R82, R257: a run of requests under the handshake is the left-to-right composition of their transitions. It ends
in a state of the block, idle, with one response for each request, in order: response `k` is the one request `k` is answered
with in the state that the requests before it left. The run's observation is its final state's. That a request takes two
transitions, one that accepts it and one that runs it, is the model's choice [log 4]. -/
def Obligations.RunsAnswerEveryRequest : Prop :=
  ∀ (rs : List Request) (s : State), s.Inv → s.pending = none → s.inputs = hostProgram rs →
    ∃ t new, Sys2Proof.core.run (2 * rs.length) s = .next t ∧ composition rs { s with inputs := [] } = .next t ∧ t.Inv ∧
      t.pending = none ∧ t.inputs = [] ∧ t.responses = s.responses ++ new ∧ new.length = rs.length ∧
      (∀ (k : Nat) (r : Request), rs[k]? = some r →
        ∃ u resp, composition (rs.take k) { s with inputs := [] } = .next u ∧ answeredWith u r resp ∧ new[k]? = some resp) ∧
      observeRun (2 * rs.length) s = some t.observe

/-! ### Responses and errors -/

/-- R70, R211, R74: every command ends in one response, its status one of the six codes, and its `rdata` is 0 where it fails
and for every command but NEXT and the READ commands; the host's events and the record are untouched. -/
def Obligations.OneResponsePerCommand : Prop :=
  ∀ (i : Instr) (s : State), ∃ t resp, exec i s = .next t ∧ t.responses = s.responses ++ [resp] ∧ t.pending = none ∧
    t.inputs = s.inputs ∧ t.cfg = s.cfg ∧ resp.status.toNat ≤ 5 ∧ (resp.status ≠ 0x00 → resp.rdata = 0) ∧
    (resp.rdata ≠ 0 → i = .next ∨ (∃ k, i = .readWord k) ∨ i = .readLung ∨ i = .readIndex ∨ i = .readInfo)

/-- R210: a failed command sends its status with `rdata = 0` and changes no architectural state. -/
def Obligations.FailedCommandChangesNothing : Prop :=
  ∀ (i : Instr) (s t : State) (resp : Response), exec i s = .next t → t.responses = s.responses ++ [resp] →
    resp.status ≠ 0x00 → resp.rdata = 0 ∧ t = { s with pending := none, responses := s.responses ++ [resp] }

/-- R217: exactly one error is reported, the first that applies in the order illegal command, invalid argument, unsupported,
not seeded, key unwritten; else the status is 0. No command meets both of the last two. -/
def Obligations.ErrorPriority : Prop :=
  (∀ (s : State) (r : Request), s.Inv → awaitsResponse s r →
    (illegalWord r.cmd → ∃ t, step s = .next t ∧ t.responses = s.responses ++ [⟨0x01, 0⟩]) ∧
    (∀ i st, decode r = .ok i → statusFor i s st → ∃ t rd, step s = .next t ∧ t.responses = s.responses ++ [⟨st, rd⟩])) ∧
  ∀ (s : State) (i : Instr), ¬(lacksSeed s.seeded i ∧ lacksKey s.keyValid i)

/-- R213: an immediate out of range, whether or not the block is seeded and whatever the key RAM holds. -/
def Obligations.InvalidArgumentIsReported : Prop :=
  ∀ (s : State) (n : Nat) (d : Word),
    let refusal : Host.Outcome State Fault Refusal :=
      .next { s with pending := none, responses := s.responses ++ [⟨0x02, 0⟩] }
    (s.cfg.keyDepth ≤ n → exec (.keyWrite n d) s = refusal) ∧ exec (.seedArray 0) s = refusal ∧
    (s.cfg.keyDepth < n → exec (.seedArray n) s = refusal) ∧ (s.cfg.N ≤ n → exec (.readWord n) s = refusal)

/-- R214, R168: JUMP on a configuration without a jump polynomial fails with `E_UNSUPPORTED`, seeded or not, and is no silent
no-op. -/
def Obligations.JumpWithoutPolynomialIsUnsupported : Prop :=
  ∀ s : State, s.cfg.jumpPoly = none →
    exec .jump s = .next { s with pending := none, responses := s.responses ++ [⟨0x03, 0⟩] }

/-- R215: while `seeded = 0`, NEXT, READ_LUNG and READ_INDEX, JUMP with a polynomial and READ_WORD of a legal slot fail with
`E_NOT_SEEDED`. -/
def Obligations.UnseededCommandsFail : Prop :=
  ∀ s : State, s.seeded = false →
    let refusal : Host.Outcome State Fault Refusal :=
      .next { s with pending := none, responses := s.responses ++ [⟨0x04, 0⟩] }
    exec .next s = refusal ∧ (s.cfg.jumpPoly.isSome = true → exec .jump s = refusal) ∧
    (∀ i, i < s.cfg.N → exec (.readWord i) s = refusal) ∧ exec .readLung s = refusal ∧ exec .readIndex s = refusal

/-- R216: SEED_ARRAY with a legal length fails with `E_KEY_UNWRITTEN` if some entry it needs has not been written. -/
def Obligations.UnwrittenKeyIsReported : Prop :=
  ∀ (s : State) (len j : Nat), 1 ≤ len → len ≤ s.cfg.keyDepth → j < len → s.keyValid[j]? = some false →
    exec (.seedArray len) s = .next { s with pending := none, responses := s.responses ++ [⟨0x05, 0⟩] }

/-! ### Which state a command changes -/

/-- R30, R67: only KEY_WRITE changes the key RAM, and only its own entry; no command clears a valid bit. -/
def Obligations.KeyRamPersists : Prop :=
  ∀ (i : Instr) (s t : State), exec i s = .next t →
    ((∀ j d, i ≠ .keyWrite j d) → t.key = s.key ∧ t.keyValid = s.keyValid) ∧
    (∀ j d, i = .keyWrite j d → ∀ k : Nat, k ≠ j → t.key[k]? = s.key[k]? ∧ t.keyValid[k]? = s.keyValid[k]?) ∧
    (∀ k : Nat, s.keyValid[k]? = some true → t.keyValid[k]? = some true)

/-- R24: a successful seeding command sets `seeded`; nothing else writes it, a seeding command that fails included, and no
command clears it. -/
def Obligations.SeededIsSetBySeedingOnly : Prop :=
  ∀ (i : Instr) (s t : State), exec i s = .next t →
    (s.seeded = true → t.seeded = true) ∧
    (t.seeded ≠ s.seeded → ((∃ d, i = .seedScalar d) ∨ ∃ len, i = .seedArray len) ∧ t.responses = s.responses ++ [⟨0x00, 0⟩]) ∧
    (((∃ d, i = .seedScalar d) ∨ ∃ len, i = .seedArray len) → t.responses = s.responses ++ [⟨0x00, 0⟩] → t.seeded = true)

/-- R23: NEXT advances `index` by one modulo `N`, JUMP and the other commands leave it, and the two seeding procedures set it
to 0. -/
def Obligations.IndexMovement : Prop :=
  ∀ (i : Instr) (s t : State), s.Inv → exec i s = .next t →
    (i = .next → s.seeded = true → t.gen.index.toNat = (s.gen.index.toNat + 1) % s.cfg.N) ∧
    (((∃ d, i = .seedScalar d) ∨ ∃ len, i = .seedArray len) → t.responses = s.responses ++ [⟨0x00, 0⟩] →
      t.gen.index = 0) ∧
    (i ≠ .next → (∀ d, i ≠ .seedScalar d) → (∀ len, i ≠ .seedArray len) → t.gen.index = s.gen.index)

/-- R59, R190 to R193: the READ commands and KEY_WRITE change no part of `S`, and the READ commands change nothing at all
but the response. -/
def Obligations.ReadsChangeNothing : Prop :=
  ∀ (s t : State),
    (∀ j d, exec (.keyWrite j d) s = .next t → t.gen = s.gen ∧ t.seeded = s.seeded ∧ t.sequencer = s.sequencer) ∧
    (∀ i, ((∃ k, i = .readWord k) ∨ i = .readLung ∨ i = .readIndex ∨ i = .readInfo) → exec i s = .next t →
      t = { s with pending := none, responses := t.responses })

/-! ### NEXT -/

/-- R107 (R101 to R106): NEXT on a seeded block, the whole step and its output. -/
def Obligations.NextStepsAndOutputs : Prop :=
  ∀ s : State, s.seeded = true →
    let c := s.cfg
    let w := s.gen.words
    let i := s.gen.index.toNat
    let i1 := (i + 1) % c.N
    let upper : Word := ~~~(0 : Word) <<< (64 - c.P)
    let combined := if c.splitSource = .indexHigh then (w.getD i 0 &&& upper) ||| (w.getD i1 0 &&& ~~~upper)
      else (w.getD i1 0 &&& upper) ||| (w.getD i 0 &&& ~~~upper)
    let twisted : Word := if combined &&& 1 = 1 then c.matrixA else 0
    let lung := (combined >>> 1) ^^^ twisted ^^^ w.getD ((i + c.M) % c.N) 0 ^^^ (s.gen.lung ^^^ (s.gen.lung <<< c.A1))
    let y := combined ^^^ (lung ^^^ (lung >>> c.A2))
    let out := (y ^^^ (y <<< c.shift)) ^^^ ((w.set i y).getD ((i + c.L) % c.N) 0 &&& c.mask)
    exec .next s = .next { s with
      gen := { words := w.set i y, lung := lung, index := BitVec.ofNat 24 i1 }
      pending := none
      responses := s.responses ++ [⟨0x00, out⟩] }

/-- R35: NEXT changes one slot, the one at the old `index`, `lung`, and `index`, which advances by one modulo `N`; nothing
else changes but the response. So the tempering slot keeps its word (R105). -/
def Obligations.NextChangesThreePlaces : Prop :=
  ∀ s : State, s.Inv → s.seeded = true →
    ∃ t, exec .next s = .next t ∧ t.gen.words.length = s.cfg.N ∧
      (∀ k, k ≠ s.gen.index.toNat → t.gen.words[k]? = s.gen.words[k]?) ∧
      t.gen.words[(s.gen.index.toNat + s.cfg.L) % s.cfg.N]? = s.gen.words[(s.gen.index.toNat + s.cfg.L) % s.cfg.N]? ∧
      t.gen.index.toNat = (s.gen.index.toNat + 1) % s.cfg.N ∧
      t = { s with gen := t.gen, pending := none, responses := t.responses }

/-- R108: for a fixed `index` the step is linear over GF(2), and the zero state steps to the zero state with output 0 (R230). -/
def Obligations.StepIsLinear : Prop :=
  ∀ (c : Config) (a b : GenState), c.WellFormed → a.WellFormed c → b.WellFormed c → a.index = b.index →
    stepState c (xorGen c a b) = xorGen c (stepState c a) (stepState c b) ∧
    stepOutput c (xorGen c a b) = stepOutput c a ^^^ stepOutput c b ∧
    stepState c (zeroGen c a.index) = zeroGen c (stepState c a).index ∧ stepOutput c (zeroGen c a.index) = 0

/-- R36: states with equal logical views give the same outputs, whatever their indices; where the high `P` bits come from
`words[index]`, so do states that differ also in the dead bits of `X_0`. -/
def Obligations.LogicalViewFixesOutputs : Prop :=
  ∀ (c : Config) (a b : GenState), c.WellFormed → a.WellFormed c → b.WellFormed c →
    (logicalView c a = logicalView c b ∨ (c.splitSource = .indexHigh ∧ sameLive c a b)) →
    ∀ n, outputs c n a = outputs c n b

/-- R109: the four phases, and in each the uniform slot numbers are the source's phase-specialised ones; index 0, where both
seeding procedures leave it, is phase 1. -/
def Obligations.PhasesGiveSlotNumbers : Prop :=
  ∀ (c : Config) (i : Nat), c.WellFormed → i < c.N →
    (phase c i = 1 ∨ phase c i = 2 ∨ phase c i = 3 ∨ phase c i = 4) ∧ phase c 0 = 1 ∧
    (phase c i = 4 ↔ i = c.N - 1) ∧
    (phase c i = 1 → (i + c.M) % c.N = i + c.M ∧ (i + c.L) % c.N = i + c.L) ∧
    (phase c i = 2 → if c.M < c.L then (i + c.M) % c.N = i + c.M ∧ (i + c.L) % c.N = i - (c.N - c.L)
      else (i + c.M) % c.N = i - (c.N - c.M) ∧ (i + c.L) % c.N = i + c.L) ∧
    (phase c i = 3 ∨ phase c i = 4 → (i + c.M) % c.N = i - (c.N - c.M) ∧ (i + c.L) % c.N = i - (c.N - c.L)) ∧
    (i + 1) % c.N = if phase c i = 4 then 0 else i + 1

/-! ### Seeding -/

/-- R131: SEED_SCALAR replaces the whole state in every state, sets `seeded`, and changes nothing else. -/
def Obligations.SeedScalarReplacesState : Prop :=
  ∀ (d : Word) (s : State), exec (.seedScalar d) s = .next { s with
    gen := seedScalar s.cfg d
    seeded := true
    pending := none
    responses := s.responses ++ [⟨0x00, 0⟩] }

/-- R130: the words, `lung` and `index` of `seed_scalar(seed)`. -/
def Obligations.ScalarSeedWords : Prop :=
  ∀ (c : Config) (seed : Word), 2 ≤ c.N →
    let w := (seedScalar c seed).words
    let formula (p : Word) (i : Nat) : Word := 6364136223846793005 * (p ^^^ (p >>> 62)) + BitVec.ofNat 64 i
    w.length = c.N ∧ w.getD 0 0 = seed ∧ (∀ i, 1 ≤ i → i < c.N → w.getD i 0 = formula (w.getD (i - 1) 0) i) ∧
    (seedScalar c seed).lung = formula (w.getD (c.N - 1) 0) c.N ∧ (seedScalar c seed).index = 0

/-- R132: KEY_WRITE of a legal entry writes the entry, sets its valid bit, and changes nothing else. -/
def Obligations.KeyWriteStoresEntry : Prop :=
  ∀ (j : Nat) (d : Word) (s : State), s.Inv → j < s.cfg.keyDepth →
    ∃ t, exec (.keyWrite j d) s = .next t ∧ t.key[j]? = some d ∧ t.keyValid[j]? = some true ∧
      (∀ k : Nat, k ≠ j → t.key[k]? = s.key[k]? ∧ t.keyValid[k]? = s.keyValid[k]?) ∧
      t = { s with key := t.key, keyValid := t.keyValid, pending := none, responses := s.responses ++ [⟨0x00, 0⟩] }

/-- R139: SEED_ARRAY of a legal length whose entries have been written replaces the whole state by `seed_array`, sets
`seeded`, leaves no sequencer busy, and changes nothing else; the key RAM keeps its entries and valid bits. -/
def Obligations.SeedArrayReplacesState : Prop :=
  ∀ (len : Nat) (s : State), 1 ≤ len → len ≤ s.cfg.keyDepth → (∀ j, j < len → s.keyValid[j]? = some true) →
    exec (.seedArray len) s = .next { s with
      gen := seedArray s.cfg s.key len
      seeded := true
      sequencer := .idle
      pending := none
      responses := s.responses ++ [⟨0x00, 0⟩] }

/-- R133 to R138: `seed_array(key, len)`, its six stages written out. The fold formulas and the cursors' start and restart
values are the spec's own passages from general knowledge, PRESUMED [log 10]. -/
def Obligations.ArraySeedStages : Prop :=
  ∀ (c : Config) (key : List Word) (len : Nat),
    let mix (p : Word) : Word := p ^^^ (p >>> 62)
    let moved (w : SeedWork) (v : Word) (j : Nat) : SeedWork :=
      let ws := w.gen.words.set w.i v
      { gen := { words := if c.N ≤ w.i + 1 then ws.set 0 (ws.getD (c.N - 1) 0) else ws
                 lung := w.gen.lung
                 index := w.gen.index }
        i := if c.N ≤ w.i + 1 then 1 else w.i + 1
        j := j }
    let pass1 (w : SeedWork) : SeedWork := moved w
      ((w.gen.words.getD w.i 0 ^^^ (mix (w.gen.words.getD (w.i - 1) 0) * 3935559000370003845)) + key.getD w.j 0 +
        BitVec.ofNat 64 w.j) (if len ≤ w.j + 1 then 0 else w.j + 1)
    let pass2 (w : SeedWork) : SeedWork := moved w
      ((w.gen.words.getD w.i 0 ^^^ (mix (w.gen.words.getD (w.i - 1) 0) * 2862933555777941757)) - BitVec.ofNat 64 w.i) w.j
    let g := (pass2^[c.N - 1] (pass1^[max c.N len] { gen := seedScalar c 19650218, i := 1, j := 0 })).gen
    seedArray c key len =
      { words := g.words.set 0 (g.words.getD 0 0 ||| 0x8000000000000000)
        lung := (g.lung ^^^ (mix (g.words.getD (c.N - 1) 0) * 2862933555777941757)) - BitVec.ofNat 64 c.N
        index := 0 }

/-- R136, R137, R138: after array seeding there are `N` words, the top bit of `words[0]` is 1, `index` is 0, and `lung` is
the scalar pre-seed's folded against the final `words[N-1]` and `-N`. The fold formula is the spec's own passage from general
knowledge, PRESUMED [log 10]. -/
def Obligations.ArraySeedEndsFolded : Prop :=
  ∀ (c : Config) (key : List Word) (len : Nat), c.WellFormed →
    let g := seedArray c key len
    let p := g.words.getD (c.N - 1) 0
    g.words.length = c.N ∧ (g.words.getD 0 0).getLsbD 63 = true ∧ g.index = 0 ∧
    g.lung = ((seedScalar c 19650218).lung ^^^ ((p ^^^ (p >>> 62)) * 2862933555777941757)) - BitVec.ofNat 64 c.N

/-- R140: seeding never yields the all-zero state. Scalar seeding leaves `words[N-1]` or `lung` non-zero; array seeding leaves
bit 63 of `words[0]` at 1, which is among the bits `combined` takes from `words[index]`. -/
def Obligations.SeedingNeverYieldsZero : Prop :=
  ∀ (c : Config) (seed : Word) (key : List Word) (len : Nat), c.WellFormed →
    ¬((seedScalar c seed).words.getD (c.N - 1) 0 = 0 ∧ (seedScalar c seed).lung = 0) ∧
    ((seedArray c key len).words.getD 0 0 &&& upperMask c.P).getLsbD 63 = true ∧
    seedScalar c seed ≠ zeroGen c 0 ∧ seedArray c key len ≠ zeroGen c 0

/-- R141: the result of a seeding command, and so every output after it, depends only on its operand and on the key entries
it reads, not on the state before it or on `seeded`. -/
def Obligations.SeedingIsDetermined : Prop :=
  ∀ (s t : State), s.cfg = t.cfg →
    (∀ d, ∃ s' t', exec (.seedScalar d) s = .next s' ∧ exec (.seedScalar d) t = .next t' ∧ s'.gen = t'.gen ∧
      s'.seeded = true ∧ t'.seeded = true ∧ ∀ n, outputs s'.cfg n s'.gen = outputs t'.cfg n t'.gen) ∧
    (∀ len, 1 ≤ len → len ≤ s.cfg.keyDepth →
      (∀ j, j < len → s.keyValid[j]? = some true ∧ t.keyValid[j]? = some true ∧ s.key[j]? = t.key[j]?) →
      ∃ s' t', exec (.seedArray len) s = .next s' ∧ exec (.seedArray len) t = .next t' ∧ s'.gen = t'.gen ∧
        s'.seeded = true ∧ t'.seeded = true ∧ ∀ n, outputs s'.cfg n s'.gen = outputs t'.cfg n t'.gen)

/-! ### Merge and jump -/

/-- R160: `merge(a, b)` slot by slot, and as the GF(2) sum of the logical views at `a`'s rotation. -/
def Obligations.MergeAddsLogicalWords : Prop :=
  ∀ (c : Config) (a b : GenState), c.WellFormed → a.WellFormed c → b.WellFormed c →
    let d := (((b.index.toNat : Int) - (a.index.toNat : Int)) % (c.N : Int)).toNat
    (merge c a b).words.length = c.N ∧ (merge c a b).index = a.index ∧ (merge c a b).lung = a.lung ^^^ b.lung ∧
    (∀ i, i < c.N → (merge c a b).words.getD i 0 = a.words.getD i 0 ^^^ b.words.getD ((i + d) % c.N) 0) ∧
    ∀ j, logicalWord c (merge c a b) j = logicalWord c a j ^^^ logicalWord c b j

/-- R161: the three-range form of the alignment. For `n1 ≤ n2` each slot lies in exactly one of the three ranges, and in each
the `b` slot is `(i + d) mod N`; for `n1 > n2`, its mirror. -/
def Obligations.MergeThreeRanges : Prop :=
  ∀ (c : Config) (a b : GenState) (i : Nat), c.WellFormed → a.WellFormed c → b.WellFormed c → i < c.N →
    let n1 := a.index.toNat
    let n2 := b.index.toNat
    let r := (merge c a b).words.getD i 0
    let first := n1 ≤ i ∧ i < c.N - (n2 - n1)
    let second := c.N - (n2 - n1) ≤ i
    let third := i < n1
    (n1 ≤ n2 → (first ∨ second ∨ third) ∧ ¬(first ∧ second) ∧ ¬(first ∧ third) ∧ ¬(second ∧ third)) ∧
    (n1 ≤ n2 → first → r = a.words.getD i 0 ^^^ b.words.getD (i + (n2 - n1)) 0) ∧
    (n1 ≤ n2 → second → r = a.words.getD i 0 ^^^ b.words.getD (i - (c.N - (n2 - n1))) 0) ∧
    (n1 ≤ n2 → third → r = a.words.getD i 0 ^^^ b.words.getD (i + (n2 - n1)) 0) ∧
    (n1 ≤ n2 → r = a.words.getD i 0 ^^^ b.words.getD ((i + (n2 - n1)) % c.N) 0) ∧
    (n2 < n1 → n1 - n2 ≤ i → r = a.words.getD i 0 ^^^ b.words.getD (i - (n1 - n2)) 0) ∧
    (n2 < n1 → i < n1 - n2 → r = a.words.getD i 0 ^^^ b.words.getD (i + c.N - (n1 - n2)) 0) ∧
    (n2 < n1 → r = a.words.getD i 0 ^^^ b.words.getD ((i + (c.N - (n1 - n2))) % c.N) 0)

/-- R162: merge is commutative on logical views (and exactly, for equal indices), associative, self-inverse, and has the zero
states as identities. -/
def Obligations.MergeAlgebra : Prop :=
  ∀ (c : Config) (a b d : GenState) (x : BitVec 24), c.WellFormed → a.WellFormed c → b.WellFormed c → d.WellFormed c →
    x.toNat < c.N →
    logicalView c (merge c a b) = logicalView c (merge c b a) ∧
    (a.index = b.index → merge c a b = merge c b a) ∧
    merge c (merge c a b) d = merge c a (merge c b d) ∧
    merge c a a = zeroGen c a.index ∧
    (logicalView c a = logicalView c b → merge c a b = zeroGen c a.index) ∧
    logicalView c (merge c (zeroGen c x) b) = logicalView c b ∧ (merge c (zeroGen c x) b).index = x ∧
    merge c a (zeroGen c x) = a

/-- R53, R54: a digit of the literal has the value of its character, `0` to `9` as 0 to 9 and `a` to `f`, or `A` to `F`, as 10
to 15; and the bits are read digit by digit, within a digit from its most significant bit to its least. -/
def Obligations.PolyBitsReadDigits : Prop :=
  ∀ (digits : List Char) (d : Nat),
    (∀ ch, digits[d]? = some ch →
      (48 ≤ ch.toNat → ch.toNat ≤ 57 → polyDigit digits d = ch.toNat - 48) ∧
      (97 ≤ ch.toNat → ch.toNat ≤ 102 → polyDigit digits d = ch.toNat - 87) ∧
      (65 ≤ ch.toNat → ch.toNat ≤ 70 → polyDigit digits d = ch.toNat - 55)) ∧
    polyDigit digits d = (if polyBit digits (4 * d) then 8 else 0) + (if polyBit digits (4 * d + 1) then 4 else 0) +
      (if polyBit digits (4 * d + 2) then 2 else 0) + (if polyBit digits (4 * d + 3) then 1 else 0)

/-- R166: JUMP on a seeded block with a polynomial replaces the state by `jump(S)`, leaves no sequencer busy, and changes
nothing else. -/
def Obligations.JumpReplacesState : Prop :=
  ∀ (s : State) (digits : List Char), s.cfg.jumpPoly = some digits → s.seeded = true →
    exec .jump s = .next { s with
      gen := jump s.cfg digits s.gen
      sequencer := .idle
      pending := none
      responses := s.responses ++ [⟨0x00, 0⟩] }

/-- R164, R165: `jump(S)` keeps `index`, and its logical view is the GF(2) sum of the logical views of `step^k(S)` over the
`k` with `PolyBit(k) = 1`. -/
def Obligations.JumpSumsSteppedStates : Prop :=
  ∀ (c : Config) (digits : List Char) (g : GenState), c.WellFormed → g.WellFormed c →
    let ks := (List.range (4 * digits.length)).filter (fun k => polyBit digits k)
    (jump c digits g).words.length = c.N ∧ (jump c digits g).index = g.index ∧
    (jump c digits g).lung = (ks.map fun k => (stepped c k g).lung).foldl (· ^^^ ·) 0 ∧
    ∀ j, j < c.N → logicalWord c (jump c digits g) j = (ks.map fun k => logicalWord c (stepped c k g) j).foldl (· ^^^ ·) 0

/-- R166, R163: a polynomial whose only set bit is `PolyBit(0)` leaves the state unchanged; one whose only set bit is
`PolyBit(k)` gives the logical view of the state `k` steps on. -/
def Obligations.MonomialJumpIsStepping : Prop :=
  ∀ (c : Config) (digits : List Char) (k : Nat) (g : GenState), c.WellFormed → g.WellFormed c →
    (∀ m, polyBit digits m = true ↔ m = k) →
    logicalView c (jump c digits g) = logicalView c (stepped c k g) ∧ (k = 0 → jump c digits g = g)

/-- R108, R165, R167: the step after a jump and the jump after a step have one logical view, and every output after them is the
same. -/
def Obligations.JumpCommutesWithNext : Prop :=
  ∀ (c : Config) (digits : List Char) (g : GenState), c.WellFormed → g.WellFormed c →
    logicalView c (stepState c (jump c digits g)) = logicalView c (jump c digits (stepState c g)) ∧
    ∀ n, outputs c n (stepState c (jump c digits g)) = outputs c n (jump c digits (stepState c g))

/-- R170, before the reduction modulo `f`: a jump by `q` after a jump by `p` has the logical view of one jump by the product
polynomial `p·q` over GF(2). -/
def Obligations.JumpsCompose : Prop :=
  ∀ (c : Config) (p q pq : List Char) (g : GenState), c.WellFormed → g.WellFormed c →
    (∀ k, polyBit pq k =
      ((List.range (k + 1)).map fun i => polyBit p i && polyBit q (k - i)).foldl Bool.xor false) →
    logicalView c (jump c q (jump c p g)) = logicalView c (jump c pq g)

/-! ### Inspection -/

/-- R190: READ_WORD of a legal slot of a seeded block returns the slot's word and changes nothing. -/
def Obligations.ReadWordReturnsSlot : Prop :=
  ∀ (s : State) (i : Nat) (v : Word), s.seeded = true → i < s.cfg.N → s.gen.words[i]? = some v →
    exec (.readWord i) s = .next { s with pending := none, responses := s.responses ++ [⟨0x00, v⟩] }

/-- R191: READ_LUNG of a seeded block returns `S.lung` and changes nothing. -/
def Obligations.ReadLungReturnsLung : Prop :=
  ∀ s : State, s.seeded = true →
    exec .readLung s = .next { s with pending := none, responses := s.responses ++ [⟨0x00, s.gen.lung⟩] }

/-- R192: READ_INDEX of a seeded block returns `S.index` zero-extended, a value below `N`, and changes nothing. -/
def Obligations.ReadIndexReturnsIndex : Prop :=
  ∀ s : State, s.Inv → s.seeded = true →
    ∃ v : Word, exec .readIndex s = .next { s with pending := none, responses := s.responses ++ [⟨0x00, v⟩] } ∧
      v.toNat = s.gen.index.toNat ∧ v.toNat < s.cfg.N ∧ v.extractLsb' 24 40 = 0

/-- R28, R193: READ_INFO, seeded or not, returns the INFO word, field by field, and changes nothing. -/
def Obligations.ReadInfoReturnsFields : Prop :=
  ∀ s : State, s.cfg.WellFormed →
    ∃ v : Word, exec .readInfo s = .next { s with pending := none, responses := s.responses ++ [⟨0x00, v⟩] } ∧
      (v.extractLsb' 0 24).toNat = s.cfg.N ∧ v.getLsbD 24 = s.cfg.jumpPoly.isSome ∧ v.getLsbD 25 = s.seeded ∧
      v.extractLsb' 26 6 = 0 ∧ (v.extractLsb' 32 24).toNat = s.cfg.keyDepth ∧ v.extractLsb' 56 8 = 0

/-! ### The assembler -/

/-- R81: SEED_KEY with `1 ≤ n ≤ KEY_DEPTH` operands assembles to the requests of `KEY_WRITE j, k_j` for each `j` in order and
then `SEED_ARRAY n`; with none it is refused. That it is refused with more than `KEY_DEPTH`, too, the model deduces [log 11]:
the rule gives such a line no expansion. -/
def Obligations.SeedKeyExpands : Prop :=
  ∀ (c : Config) (keys : List Nat), c.WellFormed → (∀ k ∈ keys, k < 2 ^ 64) →
    (1 ≤ keys.length ∧ keys.length ≤ c.keyDepth →
      ∃ rs, assemble c (.seedKey keys) = some rs ∧ rs.length = keys.length + 1 ∧
        (∀ j k, keys[j]? = some k → ∃ r, rs[j]? = some r ∧ decode r = .ok (.keyWrite j (BitVec.ofNat 64 k))) ∧
        ∃ r, rs[keys.length]? = some r ∧ decode r = .ok (.seedArray keys.length)) ∧
    (keys.length = 0 ∨ c.keyDepth < keys.length → assemble c (.seedKey keys) = none)

/-- R80: the assembler refuses an immediate that does not fit in 24 bits, and assembles every other command to one request
that decodes to it, with `data = 0` where the command has no data word. -/
def Obligations.AssemblerRefusesWideImmediates : Prop :=
  ∀ c : Config,
    (∀ (n : Nat) (d : Word), 2 ^ 24 ≤ n → assemble c (.command (.keyWrite n d)) = none ∧
      assemble c (.command (.seedArray n)) = none ∧ assemble c (.command (.readWord n)) = none) ∧
    ∀ i : Instr, i.wellFormed = true → ∃ r, assemble c (.command i) = some [r] ∧ decode r = .ok i ∧
      ((∀ d, i ≠ .seedScalar d) → (∀ j d, i ≠ .keyWrite j d) → r.data = 0)
end

