-- ==== Sys2Proof/Laws/Decode.lean ====
section
/-! SUPPORT. The fields of a command word as numbers (30_encoding.md R71), and the masks of the opcode map (R75). -/

namespace Sys2Proof

/-- `op` is the command word's quotient by `2^24`. -/
theorem opField_toNat (w : BitVec 32) : (opField w).toNat = w.toNat / 2 ^ 24 := by
  simp only [opField, BitVec.extractLsb'_toNat, Nat.shiftRight_eq_div_pow]; omega

/-- `imm` is the command word's remainder by `2^24`. -/
theorem immField_toNat (w : BitVec 32) : (immField w).toNat = w.toNat % 2 ^ 24 := by simp [immField]

/-- The value of a command word of format `C24`. -/
theorem c24_toNat (op : BitVec 8) (n : Nat) : (c24 op n).toNat = op.toNat * 2 ^ 24 + n % 2 ^ 24 := by
  have h1 : n % 2 ^ 24 < 2 ^ 24 := Nat.mod_lt _ (by norm_num)
  have h2 := op.isLt
  have h3 : op.toNat <<< 24 % 2 ^ 32 = op.toNat * 2 ^ 24 := by
    rw [Nat.shiftLeft_eq, Nat.mod_eq_of_lt]; omega
  simp only [c24, BitVec.toNat_or, BitVec.toNat_shiftLeft, BitVec.toNat_setWidth, BitVec.toNat_ofNat]
  rw [Nat.mod_eq_of_lt (show op.toNat < 2 ^ 32 by omega), h3, Nat.mod_eq_of_lt (show n % 2 ^ 24 < 2 ^ 32 by omega),
    Nat.mul_comm, Nat.two_pow_add_eq_or_of_lt h1]

/-- A command word of format `C24` has the opcode it was made with. -/
theorem opField_c24 (op : BitVec 8) (n : Nat) : opField (c24 op n) = op := by
  have := Nat.mod_lt n (show 0 < 2 ^ 24 by norm_num)
  apply BitVec.eq_of_toNat_eq
  rw [opField_toNat, c24_toNat]; omega

/-- A command word of format `C24` has the immediate it was made with, if it fits. -/
theorem immValue_c24 (op : BitVec 8) {n : Nat} (h : n < 2 ^ 24) : immValue (c24 op n) = n := by
  rw [immValue, immField_toNat, c24_toNat]; omega

/-- The mask `0x00FFFFFF` keeps the immediate. -/
theorem and_immMask_toNat (w : BitVec 32) : (w &&& 0x00FFFFFF).toNat = w.toNat % 2 ^ 24 := by
  rw [BitVec.toNat_and]; exact Nat.and_two_pow_sub_one_eq_mod w.toNat 24

/-- The mask `0xFF000000` keeps the opcode. -/
theorem and_opMask_toNat (w : BitVec 32) : (w &&& 0xFF000000).toNat = w.toNat / 2 ^ 24 * 2 ^ 24 := by
  rw [BitVec.toNat_and, show (0xFF000000 : BitVec 32).toNat = (2 ^ 8 - 1) <<< 24 from rfl, ← Nat.shiftLeft_eq,
    ← Nat.shiftRight_eq_div_pow]
  apply Nat.eq_of_testBit_eq
  intro i
  simp only [Nat.testBit_and, Nat.testBit_shiftLeft, Nat.testBit_two_pow_sub_one, Nat.testBit_shiftRight]
  by_cases h : 24 ≤ i
  · by_cases h2 : i < 32
    · simp [h, show i - 24 < 8 by omega, show 24 + (i - 24) = i by omega]
    · have h3 : w.toNat.testBit i = false :=
        Nat.testBit_lt_two_pow (lt_of_lt_of_le w.isLt (Nat.pow_le_pow_right (by norm_num) (by omega)))
      simp [h3, show 24 + (i - 24) = i by omega]
  · simp [h]

/-- The mask `0xFFFFFFFF` keeps the whole word. -/
theorem and_fullMask (w : BitVec 32) : w &&& 0xFFFFFFFF = w := by
  rw [show (0xFFFFFFFF : BitVec 32) = BitVec.allOnes 32 by decide, BitVec.and_allOnes]

end Sys2Proof
end

