-- ==== Sys2Proof/Laws/State.lean ====
section
/-! SUPPORT. One lemma per field per update of the state: no proof unfolds a record update. -/

namespace Sys2Proof.Machine

/-! ### `State.loadGen` -/

@[simp] theorem State.loadGen_cfg (s : State) (g : GenState) : (s.loadGen g).cfg = s.cfg := rfl
@[simp] theorem State.loadGen_gen (s : State) (g : GenState) : (s.loadGen g).gen = g := rfl
@[simp] theorem State.loadGen_seeded (s : State) (g : GenState) : (s.loadGen g).seeded = s.seeded := rfl
@[simp] theorem State.loadGen_key (s : State) (g : GenState) : (s.loadGen g).key = s.key := rfl
@[simp] theorem State.loadGen_keyValid (s : State) (g : GenState) : (s.loadGen g).keyValid = s.keyValid := rfl
@[simp] theorem State.loadGen_sequencer (s : State) (g : GenState) : (s.loadGen g).sequencer = s.sequencer := rfl
@[simp] theorem State.loadGen_pending (s : State) (g : GenState) : (s.loadGen g).pending = s.pending := rfl
@[simp] theorem State.loadGen_inputs (s : State) (g : GenState) : (s.loadGen g).inputs = s.inputs := rfl
@[simp] theorem State.loadGen_responses (s : State) (g : GenState) : (s.loadGen g).responses = s.responses := rfl

/-! ### `State.seed` -/

@[simp] theorem State.seed_cfg (s : State) (g : GenState) : (s.seed g).cfg = s.cfg := rfl
@[simp] theorem State.seed_gen (s : State) (g : GenState) : (s.seed g).gen = g := rfl
@[simp] theorem State.seed_seeded (s : State) (g : GenState) : (s.seed g).seeded = true := rfl
@[simp] theorem State.seed_key (s : State) (g : GenState) : (s.seed g).key = s.key := rfl
@[simp] theorem State.seed_keyValid (s : State) (g : GenState) : (s.seed g).keyValid = s.keyValid := rfl
@[simp] theorem State.seed_sequencer (s : State) (g : GenState) : (s.seed g).sequencer = s.sequencer := rfl
@[simp] theorem State.seed_pending (s : State) (g : GenState) : (s.seed g).pending = s.pending := rfl
@[simp] theorem State.seed_inputs (s : State) (g : GenState) : (s.seed g).inputs = s.inputs := rfl
@[simp] theorem State.seed_responses (s : State) (g : GenState) : (s.seed g).responses = s.responses := rfl

/-! ### `State.setSequencer` -/

@[simp] theorem State.setSequencer_cfg (s : State) (q : Sequencer) : (s.setSequencer q).cfg = s.cfg := rfl
@[simp] theorem State.setSequencer_gen (s : State) (q : Sequencer) : (s.setSequencer q).gen = s.gen := rfl
@[simp] theorem State.setSequencer_seeded (s : State) (q : Sequencer) : (s.setSequencer q).seeded = s.seeded := rfl
@[simp] theorem State.setSequencer_key (s : State) (q : Sequencer) : (s.setSequencer q).key = s.key := rfl
@[simp] theorem State.setSequencer_keyValid (s : State) (q : Sequencer) : (s.setSequencer q).keyValid = s.keyValid := rfl
@[simp] theorem State.setSequencer_sequencer (s : State) (q : Sequencer) : (s.setSequencer q).sequencer = q := rfl
@[simp] theorem State.setSequencer_pending (s : State) (q : Sequencer) : (s.setSequencer q).pending = s.pending := rfl
@[simp] theorem State.setSequencer_inputs (s : State) (q : Sequencer) : (s.setSequencer q).inputs = s.inputs := rfl
@[simp] theorem State.setSequencer_responses (s : State) (q : Sequencer) : (s.setSequencer q).responses = s.responses := rfl

/-! ### `State.keyWrite` -/

@[simp] theorem State.keyWrite_cfg (s : State) (j : Nat) (v : Word) : (s.keyWrite j v).cfg = s.cfg := rfl
@[simp] theorem State.keyWrite_gen (s : State) (j : Nat) (v : Word) : (s.keyWrite j v).gen = s.gen := rfl
@[simp] theorem State.keyWrite_seeded (s : State) (j : Nat) (v : Word) : (s.keyWrite j v).seeded = s.seeded := rfl
@[simp] theorem State.keyWrite_key (s : State) (j : Nat) (v : Word) : (s.keyWrite j v).key = s.key.set j v := rfl
@[simp] theorem State.keyWrite_keyValid (s : State) (j : Nat) (v : Word) : (s.keyWrite j v).keyValid = s.keyValid.set j true := rfl
@[simp] theorem State.keyWrite_sequencer (s : State) (j : Nat) (v : Word) : (s.keyWrite j v).sequencer = s.sequencer := rfl
@[simp] theorem State.keyWrite_pending (s : State) (j : Nat) (v : Word) : (s.keyWrite j v).pending = s.pending := rfl
@[simp] theorem State.keyWrite_inputs (s : State) (j : Nat) (v : Word) : (s.keyWrite j v).inputs = s.inputs := rfl
@[simp] theorem State.keyWrite_responses (s : State) (j : Nat) (v : Word) : (s.keyWrite j v).responses = s.responses := rfl

/-! ### `State.respond` -/

@[simp] theorem State.respond_cfg (s : State) (st : BitVec 8) (rd : Word) : (s.respond st rd).cfg = s.cfg := rfl
@[simp] theorem State.respond_gen (s : State) (st : BitVec 8) (rd : Word) : (s.respond st rd).gen = s.gen := rfl
@[simp] theorem State.respond_seeded (s : State) (st : BitVec 8) (rd : Word) : (s.respond st rd).seeded = s.seeded := rfl
@[simp] theorem State.respond_key (s : State) (st : BitVec 8) (rd : Word) : (s.respond st rd).key = s.key := rfl
@[simp] theorem State.respond_keyValid (s : State) (st : BitVec 8) (rd : Word) : (s.respond st rd).keyValid = s.keyValid := rfl
@[simp] theorem State.respond_sequencer (s : State) (st : BitVec 8) (rd : Word) : (s.respond st rd).sequencer = s.sequencer := rfl
@[simp] theorem State.respond_pending (s : State) (st : BitVec 8) (rd : Word) : (s.respond st rd).pending = none := rfl
@[simp] theorem State.respond_inputs (s : State) (st : BitVec 8) (rd : Word) : (s.respond st rd).inputs = s.inputs := rfl
@[simp] theorem State.respond_responses (s : State) (st : BitVec 8) (rd : Word) : (s.respond st rd).responses = s.responses ++ [⟨st, rd⟩] := rfl

/-! ### `State.succeed` -/

@[simp] theorem State.succeed_cfg (s : State) (rd : Word) : (s.succeed rd).cfg = s.cfg := rfl
@[simp] theorem State.succeed_gen (s : State) (rd : Word) : (s.succeed rd).gen = s.gen := rfl
@[simp] theorem State.succeed_seeded (s : State) (rd : Word) : (s.succeed rd).seeded = s.seeded := rfl
@[simp] theorem State.succeed_key (s : State) (rd : Word) : (s.succeed rd).key = s.key := rfl
@[simp] theorem State.succeed_keyValid (s : State) (rd : Word) : (s.succeed rd).keyValid = s.keyValid := rfl
@[simp] theorem State.succeed_sequencer (s : State) (rd : Word) : (s.succeed rd).sequencer = s.sequencer := rfl
@[simp] theorem State.succeed_pending (s : State) (rd : Word) : (s.succeed rd).pending = none := rfl
@[simp] theorem State.succeed_inputs (s : State) (rd : Word) : (s.succeed rd).inputs = s.inputs := rfl
@[simp] theorem State.succeed_responses (s : State) (rd : Word) : (s.succeed rd).responses = s.responses ++ [⟨0x00, rd⟩] := rfl

/-! ### `State.raise` -/

@[simp] theorem State.raise_cfg (s : State) (e : ErrorCode) : (s.raise e).cfg = s.cfg := rfl
@[simp] theorem State.raise_gen (s : State) (e : ErrorCode) : (s.raise e).gen = s.gen := rfl
@[simp] theorem State.raise_seeded (s : State) (e : ErrorCode) : (s.raise e).seeded = s.seeded := rfl
@[simp] theorem State.raise_key (s : State) (e : ErrorCode) : (s.raise e).key = s.key := rfl
@[simp] theorem State.raise_keyValid (s : State) (e : ErrorCode) : (s.raise e).keyValid = s.keyValid := rfl
@[simp] theorem State.raise_sequencer (s : State) (e : ErrorCode) : (s.raise e).sequencer = s.sequencer := rfl
@[simp] theorem State.raise_pending (s : State) (e : ErrorCode) : (s.raise e).pending = none := rfl
@[simp] theorem State.raise_inputs (s : State) (e : ErrorCode) : (s.raise e).inputs = s.inputs := rfl
@[simp] theorem State.raise_responses (s : State) (e : ErrorCode) : (s.raise e).responses = s.responses ++ [⟨e.status, 0⟩] := rfl

/-! ### `State.setInputs` -/

@[simp] theorem State.setInputs_cfg (s : State) (rest : List HostEvent) : (s.setInputs rest).cfg = s.cfg := rfl
@[simp] theorem State.setInputs_gen (s : State) (rest : List HostEvent) : (s.setInputs rest).gen = s.gen := rfl
@[simp] theorem State.setInputs_seeded (s : State) (rest : List HostEvent) : (s.setInputs rest).seeded = s.seeded := rfl
@[simp] theorem State.setInputs_key (s : State) (rest : List HostEvent) : (s.setInputs rest).key = s.key := rfl
@[simp] theorem State.setInputs_keyValid (s : State) (rest : List HostEvent) : (s.setInputs rest).keyValid = s.keyValid := rfl
@[simp] theorem State.setInputs_sequencer (s : State) (rest : List HostEvent) : (s.setInputs rest).sequencer = s.sequencer := rfl
@[simp] theorem State.setInputs_pending (s : State) (rest : List HostEvent) : (s.setInputs rest).pending = s.pending := rfl
@[simp] theorem State.setInputs_inputs (s : State) (rest : List HostEvent) : (s.setInputs rest).inputs = rest := rfl
@[simp] theorem State.setInputs_responses (s : State) (rest : List HostEvent) : (s.setInputs rest).responses = s.responses := rfl

/-! ### `State.accept` -/

@[simp] theorem State.accept_cfg (s : State) (r : Request) (rest : List HostEvent) : (s.accept r rest).cfg = s.cfg := rfl
@[simp] theorem State.accept_gen (s : State) (r : Request) (rest : List HostEvent) : (s.accept r rest).gen = s.gen := rfl
@[simp] theorem State.accept_seeded (s : State) (r : Request) (rest : List HostEvent) : (s.accept r rest).seeded = s.seeded := rfl
@[simp] theorem State.accept_key (s : State) (r : Request) (rest : List HostEvent) : (s.accept r rest).key = s.key := rfl
@[simp] theorem State.accept_keyValid (s : State) (r : Request) (rest : List HostEvent) : (s.accept r rest).keyValid = s.keyValid := rfl
@[simp] theorem State.accept_sequencer (s : State) (r : Request) (rest : List HostEvent) : (s.accept r rest).sequencer = s.sequencer := rfl
@[simp] theorem State.accept_pending (s : State) (r : Request) (rest : List HostEvent) : (s.accept r rest).pending = some r := rfl
@[simp] theorem State.accept_inputs (s : State) (r : Request) (rest : List HostEvent) : (s.accept r rest).inputs = rest := rfl
@[simp] theorem State.accept_responses (s : State) (r : Request) (rest : List HostEvent) : (s.accept r rest).responses = s.responses := rfl

/-! ### `State.issue` -/

@[simp] theorem State.issue_cfg (s : State) (r : Request) : (s.issue r).cfg = s.cfg := rfl
@[simp] theorem State.issue_gen (s : State) (r : Request) : (s.issue r).gen = s.gen := rfl
@[simp] theorem State.issue_seeded (s : State) (r : Request) : (s.issue r).seeded = s.seeded := rfl
@[simp] theorem State.issue_key (s : State) (r : Request) : (s.issue r).key = s.key := rfl
@[simp] theorem State.issue_keyValid (s : State) (r : Request) : (s.issue r).keyValid = s.keyValid := rfl
@[simp] theorem State.issue_sequencer (s : State) (r : Request) : (s.issue r).sequencer = s.sequencer := rfl
@[simp] theorem State.issue_pending (s : State) (r : Request) : (s.issue r).pending = some r := rfl
@[simp] theorem State.issue_inputs (s : State) (r : Request) : (s.issue r).inputs = .wait :: s.inputs := rfl
@[simp] theorem State.issue_responses (s : State) (r : Request) : (s.issue r).responses = s.responses := rfl

/-! ### `State.hostReset` -/

@[simp] theorem State.hostReset_cfg (s : State) (rest : List HostEvent) : (s.hostReset rest).cfg = s.cfg := rfl
@[simp] theorem State.hostReset_gen (s : State) (rest : List HostEvent) : (s.hostReset rest).gen = zeroGen s.cfg 0 := rfl
@[simp] theorem State.hostReset_seeded (s : State) (rest : List HostEvent) : (s.hostReset rest).seeded = false := rfl
@[simp] theorem State.hostReset_key (s : State) (rest : List HostEvent) : (s.hostReset rest).key = List.replicate s.cfg.keyDepth 0 := rfl
@[simp] theorem State.hostReset_keyValid (s : State) (rest : List HostEvent) : (s.hostReset rest).keyValid = List.replicate s.cfg.keyDepth false := rfl
@[simp] theorem State.hostReset_sequencer (s : State) (rest : List HostEvent) : (s.hostReset rest).sequencer = .idle := rfl
@[simp] theorem State.hostReset_pending (s : State) (rest : List HostEvent) : (s.hostReset rest).pending = none := rfl
@[simp] theorem State.hostReset_inputs (s : State) (rest : List HostEvent) : (s.hostReset rest).inputs = rest := rfl
@[simp] theorem State.hostReset_responses (s : State) (rest : List HostEvent) : (s.hostReset rest).responses = s.responses := rfl

/-! ### `State.resetWith` -/

@[simp] theorem State.resetWith_cfg (c : Config) : (State.resetWith c).cfg = c := rfl
@[simp] theorem State.resetWith_gen (c : Config) : (State.resetWith c).gen = zeroGen c 0 := rfl
@[simp] theorem State.resetWith_seeded (c : Config) : (State.resetWith c).seeded = false := rfl
@[simp] theorem State.resetWith_key (c : Config) : (State.resetWith c).key = List.replicate c.keyDepth 0 := rfl
@[simp] theorem State.resetWith_keyValid (c : Config) : (State.resetWith c).keyValid = List.replicate c.keyDepth false := rfl
@[simp] theorem State.resetWith_sequencer (c : Config) : (State.resetWith c).sequencer = .idle := rfl
@[simp] theorem State.resetWith_pending (c : Config) : (State.resetWith c).pending = none := rfl
@[simp] theorem State.resetWith_inputs (c : Config) : (State.resetWith c).inputs = [] := rfl
@[simp] theorem State.resetWith_responses (c : Config) : (State.resetWith c).responses = [] := rfl

/-! ### Updates of a state record -/

@[simp] theorem writeSlot_words (g : GenState) (i : Nat) (v : Word) : (writeSlot g i v).words = g.words.set i v := rfl
@[simp] theorem writeSlot_lung (g : GenState) (i : Nat) (v : Word) : (writeSlot g i v).lung = g.lung := rfl
@[simp] theorem writeSlot_index (g : GenState) (i : Nat) (v : Word) : (writeSlot g i v).index = g.index := rfl
@[simp] theorem setLung_words (g : GenState) (v : Word) : (setLung g v).words = g.words := rfl
@[simp] theorem setLung_lung (g : GenState) (v : Word) : (setLung g v).lung = v := rfl
@[simp] theorem setLung_index (g : GenState) (v : Word) : (setLung g v).index = g.index := rfl
@[simp] theorem setIndex_words (g : GenState) (i : Nat) : (setIndex g i).words = g.words := rfl
@[simp] theorem setIndex_lung (g : GenState) (i : Nat) : (setIndex g i).lung = g.lung := rfl
@[simp] theorem setIndex_index (g : GenState) (i : Nat) : (setIndex g i).index = BitVec.ofNat 24 i := rfl
@[simp] theorem zeroGen_words (c : Config) (x : BitVec 24) : (zeroGen c x).words = List.replicate c.N 0 := rfl
@[simp] theorem zeroGen_lung (c : Config) (x : BitVec 24) : (zeroGen c x).lung = 0 := rfl
@[simp] theorem zeroGen_index (c : Config) (x : BitVec 24) : (zeroGen c x).index = x := rfl

/-! ### Extensionality -/

/-- Two states with equal fields are equal. -/
theorem State.eq_of_fields {s t : State} (h1 : s.cfg = t.cfg) (h2 : s.gen = t.gen) (h3 : s.seeded = t.seeded)
    (h4 : s.key = t.key) (h5 : s.keyValid = t.keyValid) (h6 : s.sequencer = t.sequencer) (h7 : s.pending = t.pending)
    (h8 : s.inputs = t.inputs) (h9 : s.responses = t.responses) : s = t := by
  cases s; cases t; simp_all

/-- Two state records with equal fields are equal. -/
theorem GenState.eq_of_fields {a b : GenState} (h1 : a.words = b.words) (h2 : a.lung = b.lung) (h3 : a.index = b.index) :
    a = b := by
  cases a; cases b; simp_all

end Sys2Proof.Machine
end

