-- ==== Sys2Proof/Laws/Ops.lean ====
section
/-! SUPPORT. What the slot operations do (20_memory.md R52). -/

namespace Sys2Proof.Machine

/-- `a mod n` lies in `[0, n)` for a positive `n`. -/
theorem intMod_lt (a : Int) {n : Nat} (hn : 0 < n) : intMod a n < n := by
  have h1 := Int.emod_nonneg a (show (n : Int) ≠ 0 by omega)
  have h2 := Int.emod_lt_of_pos a (show (0 : Int) < n by omega)
  unfold intMod; omega

/-- A computed slot number lies in `[0, N)`. -/
theorem slotAt_lt (c : Config) (g : GenState) (d : Nat) (hN : 0 < c.N) : slotAt c g d < c.N := Nat.mod_lt _ hN

theorem slotAt_zero {c : Config} {g : GenState} (hg : g.index.toNat < c.N) : slotAt c g 0 = g.index.toNat := by
  simp [slotAt, Nat.mod_eq_of_lt hg]

/-- A slot `d` places on, `0 < d < N`, is another slot than `S.index`. -/
theorem slotAt_ne_index {c : Config} {g : GenState} {d : Nat} (hg : g.index.toNat < c.N) (h1 : 1 ≤ d) (h2 : d < c.N) :
    slotAt c g d ≠ g.index.toNat := by
  unfold slotAt
  intro h
  rcases Nat.lt_or_ge (g.index.toNat + d) c.N with h' | h'
  · rw [Nat.mod_eq_of_lt h'] at h; omega
  · rw [Nat.mod_eq_sub_mod h', Nat.mod_eq_of_lt (by omega)] at h; omega

/-- Reading a slot just written. -/
theorem readSlot_writeSlot_self {g : GenState} {i : Nat} {v : Word} (h : i < g.words.length) :
    readSlot (writeSlot g i v) i = v := by simp [readSlot, writeSlot, h]

/-- Writing a slot leaves every other slot alone. -/
theorem readSlot_writeSlot_ne {g : GenState} {i k : Nat} {v : Word} (h : k ≠ i) :
    readSlot (writeSlot g i v) k = readSlot g k := by
  simp [readSlot, writeSlot, List.getElem?_set_ne (Ne.symm h)]

@[simp] theorem readSlot_setLung (g : GenState) (v : Word) (k : Nat) : readSlot (setLung g v) k = readSlot g k := rfl
@[simp] theorem readSlot_setIndex (g : GenState) (i k : Nat) : readSlot (setIndex g i) k = readSlot g k := rfl

/-- Every slot of a zero state reads 0. -/
@[simp] theorem readSlot_zeroGen (c : Config) (x : BitVec 24) (k : Nat) : readSlot (zeroGen c x) k = 0 := by
  simp only [readSlot, zeroGen, List.getD_eq_getElem?_getD, List.getElem?_replicate]
  split <;> simp

/-- Two states of the same size whose slots read alike have the same words. -/
theorem words_eq_of_readSlot {n : Nat} {a b : GenState} (ha : a.words.length = n) (hb : b.words.length = n)
    (h : ∀ k, k < n → readSlot a k = readSlot b k) : a.words = b.words := by
  apply List.ext_getElem (by omega)
  intro k h1 h2
  have := h k (by omega)
  simpa [readSlot, h1, h2] using this

/-- A number below `N ≤ 2^24 - 1` survives the 24-bit index field. -/
theorem index_toNat_of_lt {n N : Nat} (h : n < N) (hN : N ≤ 2 ^ 24 - 1) : (BitVec.ofNat 24 n).toNat = n := by
  rw [BitVec.toNat_ofNat, Nat.mod_eq_of_lt]; omega

end Sys2Proof.Machine
end

