-- ==== Sys2Proof/Laws/Recurrence.lean ====
section
/-! SUPPORT. What a step does (40_recurrence.md). -/

namespace Sys2Proof.Machine

/-- What a step writes: slot `i`, `lung` and `index`, and nothing else (R35). -/
theorem stepState_eq (c : Config) (g : GenState) :
    stepState c g = { words := g.words.set g.index.toNat (newSlot c g), lung := newLung c g,
                      index := BitVec.ofNat 24 (slotAt c g 1) } := rfl

@[simp] theorem stepState_words (c : Config) (g : GenState) :
    (stepState c g).words = g.words.set g.index.toNat (newSlot c g) := rfl
@[simp] theorem stepState_lung (c : Config) (g : GenState) : (stepState c g).lung = newLung c g := rfl
@[simp] theorem stepState_index (c : Config) (g : GenState) :
    (stepState c g).index = BitVec.ofNat 24 (slotAt c g 1) := rfl

/-- Every shape a step starts from, it keeps. -/
theorem stepState_wellFormed {c : Config} {g : GenState} (hc : c.WellFormed) (hg : g.WellFormed c) :
    (stepState c g).WellFormed c := by
  have hlt := slotAt_lt c g 1 (by omega)
  exact ⟨by simp [hg.1], by rw [stepState_index, index_toNat_of_lt hlt hc.1.2]; exact hlt⟩

/-- Slot `k ≠ i` is untouched by a step at `i = S.index`. -/
theorem readSlot_stepState_ne {c : Config} {g : GenState} {k : Nat} (h : k ≠ g.index.toNat) :
    readSlot (stepState c g) k = readSlot g k := by
  simpa [stepState] using readSlot_writeSlot_ne (g := g) h

/-- Slot `i = S.index` holds the new word after a step. -/
theorem readSlot_stepState_self {c : Config} {g : GenState} (hg : g.WellFormed c) :
    readSlot (stepState c g) g.index.toNat = newSlot c g := by
  simpa [stepState] using readSlot_writeSlot_self (g := g) (i := g.index.toNat) (by omega)

/-- The tempering slot is none that the step has written (R105). -/
theorem stepOutput_eq {c : Config} {g : GenState} (hc : c.WellFormed) (hg : g.WellFormed c) :
    stepOutput c g = xsl c.shift (newSlot c g) ^^^ (readSlot g (slotAt c g c.L) &&& c.mask) := by
  rw [stepOutput, readSlot_stepState_ne (slotAt_ne_index hg.2 hc.2.2.1.1 (by omega))]

end Sys2Proof.Machine
end

