-- ==== Sys2Proof/Laws/JumpMerge.lean ====
section
/-! SUPPORT. What merge and jump do (42_jump_merge.md). -/

namespace Sys2Proof.Machine

@[simp] theorem merge_words_length (c : Config) (a b : GenState) : (merge c a b).words.length = c.N := by simp [merge]
@[simp] theorem merge_lung (c : Config) (a b : GenState) : (merge c a b).lung = a.lung ^^^ b.lung := rfl
@[simp] theorem merge_index (c : Config) (a b : GenState) : (merge c a b).index = a.index := rfl

/-- A slot of a merge (R160). -/
theorem readSlot_merge {c : Config} {a b : GenState} {i : Nat} (h : i < c.N) :
    readSlot (merge c a b) i = readSlot a i ^^^ readSlot b ((i + mergeOffset c a b) % c.N) := by
  simp [readSlot, merge, h]

/-- The merge offset carries `a`'s rotation to `b`'s (R160). -/
theorem slotAt_add_mergeOffset (c : Config) (a b : GenState) (j : Nat) (hN : 0 < c.N) :
    (slotAt c a j + mergeOffset c a b) % c.N = slotAt c b j := by
  have h0 := Int.emod_nonneg ((b.index.toNat : Int) - a.index.toNat) (show (c.N : Int) ≠ 0 by omega)
  zify
  simp only [slotAt, mergeOffset, intMod]
  push_cast
  rw [Int.toNat_of_nonneg h0, ← Int.add_emod]
  congr 1; ring

/-- A merge adds logical words (R160). -/
theorem logicalWord_merge {c : Config} (a b : GenState) (j : Nat) (hN : 0 < c.N) :
    logicalWord c (merge c a b) j = logicalWord c a j ^^^ logicalWord c b j := by
  have h : slotAt c (merge c a b) j = slotAt c a j := rfl
  rw [logicalWord, readSlot_merge (by rw [h]; exact slotAt_lt c a j hN), h, slotAt_add_mergeOffset c a b j hN]; rfl

/-- Iterating on the sequencer is iterating on its jump work. -/
theorem onJumping_iterate (f : JumpWork → JumpWork) (n : Nat) (s : State) (w : JumpWork) :
    (State.onJumping f)^[n] (s.setSequencer (.jumping w)) = s.setSequencer (.jumping (f^[n] w)) := by
  induction n generalizing w with
  | zero => rfl
  | succ n ih => exact ih (f w)

/-- A jump on the block's state is `jump` on its record and generator state, committed in one assignment (R169). -/
theorem runJump_eq (s : State) (digits : List Char) :
    s.runJump digits = (s.loadGen (jump s.cfg digits s.gen)).setSequencer .idle := by
  rw [State.runJump, onJumping_iterate]; rfl

/-- After `n` bits the cursor stands at `n`, the work state is `n` steps on, and `ACC` keeps its index and size. -/
theorem jumpBit_iterate (c : Config) (digits : List Char) (g : GenState) (n : Nat) :
    let w := (jumpBit c digits)^[n] (jumpStart c g)
    w.k = n ∧ w.t = stepped c n g ∧ w.acc.index = g.index ∧ w.acc.words.length = c.N := by
  induction n with
  | zero => simp [jumpStart, stepped]
  | succ n ih =>
    simp only [Function.iterate_succ_apply', stepped] at ih ⊢
    obtain ⟨h1, h2, h3, h4⟩ := ih
    refine ⟨by simp [jumpBit, h1], by simp [jumpBit, recurrenceStep, h2], ?_, ?_⟩
    all_goals (simp only [jumpBit]; split <;> simp [h3, h4])

/-- A jump keeps `index` (R165). -/
theorem jump_index (c : Config) (digits : List Char) (g : GenState) : (jump c digits g).index = g.index :=
  (jumpBit_iterate c digits g (polyBits digits)).2.2.1

/-- A jump leaves `N` words. -/
theorem jump_words_length (c : Config) (digits : List Char) (g : GenState) : (jump c digits g).words.length = c.N :=
  (jumpBit_iterate c digits g (polyBits digits)).2.2.2

end Sys2Proof.Machine
end

