-- ==== Sys2Proof/Laws/Seeding.lean ====
section
/-! SUPPORT. What the seeding procedures do (41_seeding.md). -/

namespace Sys2Proof.Machine

@[simp] theorem scalarTail_length (p : Word) (i n : Nat) : (scalarTail p i n).length = n := by
  induction n generalizing p i with
  | zero => rfl
  | succ n ih => simp [scalarTail, ih]

/-- Scalar seeding makes `N` words. -/
theorem seedScalar_words_length {c : Config} (seed : Word) (h : 1 ≤ c.N) : (seedScalar c seed).words.length = c.N := by
  simp [seedScalar, scalarWords]; omega

/-- Each word of the tail is the formula applied to the word before it. -/
theorem scalarTail_getD (p : Word) (i n k : Nat) (h : k < n) :
    (scalarTail p i n).getD k 0 = scalarNext ((p :: scalarTail p i n).getD k 0) (i + k) := by
  induction n generalizing p i k with
  | zero => omega
  | succ n ih =>
    cases k with
    | zero => simp [scalarTail]
    | succ k =>
      have := ih (scalarNext p i) (i + 1) k (by omega)
      simp only [scalarTail, List.getD_cons_succ] at this ⊢
      rw [this, Nat.add_assoc, Nat.add_comm 1 k]

@[simp] theorem advanceKey_gen (len : Nat) (w : SeedWork) : (advanceKey len w).gen = w.gen := by
  unfold advanceKey; split <;> rfl
@[simp] theorem advanceKey_i (len : Nat) (w : SeedWork) : (advanceKey len w).i = w.i := by
  unfold advanceKey; split <;> rfl
@[simp] theorem advanceBuffer_j (c : Config) (w : SeedWork) : (advanceBuffer c w).j = w.j := by
  unfold advanceBuffer; split <;> rfl
@[simp] theorem advanceBuffer_lung (c : Config) (w : SeedWork) : (advanceBuffer c w).gen.lung = w.gen.lung := by
  unfold advanceBuffer; split <;> rfl
@[simp] theorem advanceBuffer_words_length (c : Config) (w : SeedWork) :
    (advanceBuffer c w).gen.words.length = w.gen.words.length := by
  unfold advanceBuffer; split <;> simp

/-- A property that each iteration keeps holds after any number of them. -/
theorem iterate_keeps {α : Type} {f : α → α} (p : α → Prop) (h : ∀ x, p x → p (f x)) (n : Nat) {x : α} (hx : p x) :
    p (f^[n] x) := by
  induction n generalizing x with
  | zero => exact hx
  | succ n ih => exact ih (h x hx)

/-- Neither pass writes `lung` or changes the number of words (R136). -/
theorem seedPasses_lung_length (c : Config) (key : List Word) (len m n : Nat) (w : SeedWork) :
    let w' := (seedPass2 c)^[n] ((seedPass1 c key len)^[m] w)
    w'.gen.lung = w.gen.lung ∧ w'.gen.words.length = w.gen.words.length := by
  apply iterate_keeps (fun x : SeedWork => x.gen.lung = w.gen.lung ∧ x.gen.words.length = w.gen.words.length)
  · rintro x ⟨h1, h2⟩; simp [seedPass2, h1, h2]
  · apply iterate_keeps (fun x : SeedWork => x.gen.lung = w.gen.lung ∧ x.gen.words.length = w.gen.words.length)
    · rintro x ⟨h1, h2⟩; simp [seedPass1, h1, h2]
    · exact ⟨rfl, rfl⟩

/-- Array seeding makes `N` words. -/
theorem seedArray_words_length {c : Config} (key : List Word) (len : Nat) (h : 1 ≤ c.N) :
    (seedArray c key len).words.length = c.N := by
  have h1 := (seedPasses_lung_length c key len (max c.N len) (c.N - 1) (seedStart c)).2
  have h2 : (seedStart c).gen.words.length = c.N := seedScalar_words_length _ h
  simp [seedArray, seedFinish, h1, h2]

/-- Array seeding leaves `index` at 0 (R138). -/
theorem seedArray_index (c : Config) (key : List Word) (len : Nat) : (seedArray c key len).index = 0 := rfl

/-- Iterating on the sequencer is iterating on its seeding work. -/
theorem onSeeding_iterate (f : SeedWork → SeedWork) (n : Nat) (s : State) (w : SeedWork) :
    (State.onSeeding f)^[n] (s.setSequencer (.seeding w)) = s.setSequencer (.seeding (f^[n] w)) := by
  induction n generalizing w with
  | zero => rfl
  | succ n ih => exact ih (f w)

/-- Array seeding on the block's state is `seed_array` on its record and key, committed in one assignment (R139). -/
theorem runSeedArray_eq (s : State) (len : Nat) :
    s.runSeedArray len = (s.seed (seedArray s.cfg s.key len)).setSequencer .idle := by
  rw [State.runSeedArray, onSeeding_iterate, onSeeding_iterate]; rfl

end Sys2Proof.Machine
end

