-- ==== Sys2Proof/Laws/Memory.lean ====
section
/-! SUPPORT. Every operation keeps the sizes of the storage spaces, and the reset state has them (20_memory.md R50). -/

namespace Sys2Proof.Machine

theorem Memory.wf_loadGen {s : State} {g : GenState} (h : Memory.wf s) (hg : g.words.length = s.cfg.N) :
    Memory.wf (s.loadGen g) := ⟨hg, h.2⟩
theorem Memory.wf_seed {s : State} {g : GenState} (h : Memory.wf s) (hg : g.words.length = s.cfg.N) :
    Memory.wf (s.seed g) := ⟨hg, h.2⟩
theorem Memory.wf_keyWrite {s : State} (j : Nat) (v : Word) (h : Memory.wf s) : Memory.wf (s.keyWrite j v) :=
  ⟨h.1, by simpa using h.2.1, by simpa using h.2.2⟩
theorem Memory.wf_setSequencer {s : State} (q : Sequencer) (h : Memory.wf s) : Memory.wf (s.setSequencer q) := h
theorem Memory.wf_respond {s : State} (st : BitVec 8) (rd : Word) (h : Memory.wf s) : Memory.wf (s.respond st rd) := h
theorem Memory.wf_succeed {s : State} (rd : Word) (h : Memory.wf s) : Memory.wf (s.succeed rd) := h
theorem Memory.wf_raise {s : State} (e : ErrorCode) (h : Memory.wf s) : Memory.wf (s.raise e) := h
theorem Memory.wf_setInputs {s : State} (rest : List HostEvent) (h : Memory.wf s) : Memory.wf (s.setInputs rest) := h
theorem Memory.wf_accept {s : State} (r : Request) (rest : List HostEvent) (h : Memory.wf s) :
    Memory.wf (s.accept r rest) := h
theorem Memory.wf_issue {s : State} (r : Request) (h : Memory.wf s) : Memory.wf (s.issue r) := h
theorem Memory.wf_resetWith (c : Config) : Memory.wf (State.resetWith c) := by simp [Memory.wf]
theorem Memory.wf_hostReset (s : State) (rest : List HostEvent) : Memory.wf (s.hostReset rest) := by simp [Memory.wf]
theorem Memory.wf_reset : Memory.wf State.reset := Memory.wf_resetWith builtConfig
theorem Memory.wf_runSeedArray {s : State} (len : Nat) (h : Memory.wf s) (hN : 1 ≤ s.cfg.N) :
    Memory.wf (s.runSeedArray len) := by
  rw [runSeedArray_eq]; exact Memory.wf_setSequencer .idle (Memory.wf_seed h (seedArray_words_length _ _ hN))
theorem Memory.wf_runJump {s : State} (digits : List Char) (h : Memory.wf s) : Memory.wf (s.runJump digits) := by
  rw [runJump_eq]; exact Memory.wf_setSequencer .idle (Memory.wf_loadGen h (jump_words_length _ _ _))

end Sys2Proof.Machine
end

