-- ==== Sys2Proof/Laws/Operands.lean ====
section
/-! SUPPORT. What the operand checks say (30_encoding.md R72; 60_exceptions.md R216), and the fields of the INFO word's
conditions. A proof rewrites with these lemmas and unfolds no check. -/

namespace Sys2Proof.Machine

@[simp] theorem keyEntryLegal_iff (c : Config) (j : Nat) : keyEntryLegal c j = true ↔ j < c.keyDepth := by
  simp [keyEntryLegal]

@[simp] theorem keyLengthLegal_iff (c : Config) (len : Nat) :
    keyLengthLegal c len = true ↔ 1 ≤ len ∧ len ≤ c.keyDepth := by simp [keyLengthLegal]

@[simp] theorem slotLegal_iff (c : Config) (i : Nat) : slotLegal c i = true ↔ i < c.N := by simp [slotLegal]

/-- The first `len` entries have been written: each of their valid bits is 1. -/
@[simp] theorem keyWritten_iff (s : State) (len : Nat) :
    keyWritten s len = true ↔ ∀ j, j < len → s.keyValid[j]? = some true := by
  simp only [keyWritten, List.all_eq_true, List.mem_range, List.getD_eq_getElem?_getD]
  refine forall_congr' fun j => imp_congr_right fun _ => ?_
  rcases s.keyValid[j]? with _ | _ | _ <;> simp

@[simp] theorem jumpSupported_iff (c : Config) : jumpSupported c = true ↔ ∃ digits, c.jumpPoly = some digits := by
  simp [jumpSupported, Option.isSome_iff_exists]

end Sys2Proof.Machine
end

