-- ==== Sys2Proof/Laws/PerInstr.lean ====
section
/-! SUPPORT. A statement about the syntax of every command: the row of the opcode map with its mnemonic spells the command
word of its request (30_encoding.md R75). -/

namespace Sys2Proof.Laws.Spelling

/-- A row of the opcode map has the command's mnemonic, and it spells the command word of the command's request. -/
def Statement (i : Instr) : Prop :=
  ∃ row ∈ opcodeTable, row.mnemonic = mnemonic i ∧ row.spells (encode i).cmd = true

/-- A row with an immediate looks at the opcode only. -/
theorem and_opMask_c24 (op : BitVec 8) (n : Nat) : c24 op n &&& 0xFF000000 = c24 op 0 := by
  have := Nat.mod_lt n (show 0 < 2 ^ 24 by norm_num)
  apply BitVec.eq_of_toNat_eq
  rw [and_opMask_toNat, c24_toNat, c24_toNat]; omega

theorem seedScalar (data : Word) : Statement (.seedScalar data) :=
  ⟨⟨"SEED_SCALAR", 0x01000000, 0xFFFFFFFF⟩, by decide, rfl, show ((c24 0x01 0 &&& 0xFFFFFFFF) == 0x01000000) = true by decide⟩

theorem keyWrite (j : Nat) (data : Word) : Statement (.keyWrite j data) :=
  ⟨⟨"KEY_WRITE", 0x02000000, 0xFF000000⟩, by decide, rfl, beq_iff_eq.2 (and_opMask_c24 0x02 j)⟩

theorem seedArray (len : Nat) : Statement (.seedArray len) :=
  ⟨⟨"SEED_ARRAY", 0x03000000, 0xFF000000⟩, by decide, rfl, beq_iff_eq.2 (and_opMask_c24 0x03 len)⟩

theorem next : Statement .next := ⟨⟨"NEXT", 0x04000000, 0xFFFFFFFF⟩, by decide, rfl, rfl⟩

theorem jump : Statement .jump := ⟨⟨"JUMP", 0x05000000, 0xFFFFFFFF⟩, by decide, rfl, rfl⟩

theorem readWord (i : Nat) : Statement (.readWord i) :=
  ⟨⟨"READ_WORD", 0x06000000, 0xFF000000⟩, by decide, rfl, beq_iff_eq.2 (and_opMask_c24 0x06 i)⟩

theorem readLung : Statement .readLung := ⟨⟨"READ_LUNG", 0x07000000, 0xFFFFFFFF⟩, by decide, rfl, rfl⟩

theorem readIndex : Statement .readIndex := ⟨⟨"READ_INDEX", 0x08000000, 0xFFFFFFFF⟩, by decide, rfl, rfl⟩

theorem readInfo : Statement .readInfo := ⟨⟨"READ_INFO", 0x09000000, 0xFFFFFFFF⟩, by decide, rfl, rfl⟩

end Sys2Proof.Laws.Spelling
end

