-- ==== Sys2Proof/Laws/Step.lean ====
section
/-! SUPPORT. What a command and a step can do. -/

namespace Sys2Proof.Machine

/-- What a command can do: it fails with one of the errors, or it succeeds with a result and one of five effects. -/
theorem exec_cases {i : Instr} {s t : State} (h : exec i s = .next t) :
    (∃ e, t = s.raise e) ∨
    (∃ d, i = .seedScalar d ∧ t = (s.seed (seedScalar s.cfg d)).succeed 0) ∨
    (∃ j d, i = .keyWrite j d ∧ j < s.cfg.keyDepth ∧ t = (s.keyWrite j d).succeed 0) ∨
    (∃ len, i = .seedArray len ∧ keyLengthLegal s.cfg len = true ∧ keyWritten s len = true ∧
      t = ((s.seed (seedArray s.cfg s.key len)).setSequencer .idle).succeed 0) ∨
    (i = .next ∧ s.seeded = true ∧ t = (s.loadGen (stepState s.cfg s.gen)).succeed (stepOutput s.cfg s.gen)) ∨
    (∃ digits, i = .jump ∧ s.seeded = true ∧ s.cfg.jumpPoly = some digits ∧
      t = ((s.loadGen (jump s.cfg digits s.gen)).setSequencer .idle).succeed 0) ∨
    (∃ rd, ((∃ k, i = .readWord k) ∨ i = .readLung ∨ i = .readIndex ∨ i = .readInfo) ∧
      (s.seeded = true ∨ i = .readInfo) ∧ t = s.succeed rd) := by
  cases i with
  | seedScalar d =>
    exact .inr (.inl ⟨d, rfl, by simpa [exec, execSeedScalar] using h.symm⟩)
  | keyWrite j d =>
    simp only [exec, execKeyWrite, keyEntryLegal, decide_eq_true_eq] at h
    split at h
    · rename_i hj
      exact .inr (.inr (.inl ⟨j, d, rfl, hj, by simpa using h.symm⟩))
    · exact .inl ⟨_, by simpa using h.symm⟩
  | seedArray len =>
    simp only [exec, execSeedArray] at h
    split at h
    · split at h
      · rename_i h1 h2
        exact .inr (.inr (.inr (.inl ⟨len, rfl, h1, h2, by simpa [runSeedArray_eq] using h.symm⟩)))
      · exact .inl ⟨_, by simpa using h.symm⟩
    · exact .inl ⟨_, by simpa using h.symm⟩
  | next =>
    simp only [exec, execNext] at h
    split at h
    · rename_i h1
      exact .inr (.inr (.inr (.inr (.inl ⟨rfl, h1, by simpa [recurrenceStep] using h.symm⟩))))
    · exact .inl ⟨_, by simpa using h.symm⟩
  | jump =>
    simp only [exec, execJump] at h
    split at h
    · exact .inl ⟨_, by simpa using h.symm⟩
    · split at h
      · rename_i digits hd h1
        exact .inr (.inr (.inr (.inr (.inr (.inl ⟨digits, rfl, h1, hd, by simpa [runJump_eq] using h.symm⟩)))))
      · exact .inl ⟨_, by simpa using h.symm⟩
  | readWord k =>
    simp only [exec, execReadWord] at h
    split at h
    · split at h
      · rename_i h1
        exact .inr (.inr (.inr (.inr (.inr (.inr ⟨_, .inl ⟨k, rfl⟩, .inl h1, by simpa using h.symm⟩)))))
      · exact .inl ⟨_, by simpa using h.symm⟩
    · exact .inl ⟨_, by simpa using h.symm⟩
  | readLung =>
    simp only [exec, execReadLung] at h
    split at h
    · rename_i h1
      exact .inr (.inr (.inr (.inr (.inr (.inr ⟨_, .inr (.inl rfl), .inl h1, by simpa using h.symm⟩)))))
    · exact .inl ⟨_, by simpa using h.symm⟩
  | readIndex =>
    simp only [exec, execReadIndex] at h
    split at h
    · rename_i h1
      exact .inr (.inr (.inr (.inr (.inr (.inr ⟨_, .inr (.inr (.inl rfl)), .inl h1, by simpa using h.symm⟩)))))
    · exact .inl ⟨_, by simpa using h.symm⟩
  | readInfo =>
    exact .inr (.inr (.inr (.inr (.inr (.inr ⟨_, .inr (.inr (.inr rfl)), .inr rfl, by simpa [exec, execReadInfo] using h.symm⟩)))))

/-- A command never faults and is never refused. -/
theorem exec_next (i : Instr) (s : State) : ∃ t, exec i s = .next t := by
  cases i <;> simp only [exec, execSeedScalar, execKeyWrite, execSeedArray, execNext, execJump, execReadWord, execReadLung,
    execReadIndex, execReadInfo] <;> (repeat' split) <;> exact ⟨_, rfl⟩

/-- A command looks at neither the request in progress nor the host's events: it does the same whatever they are, and leaves
the events as it found them. -/
theorem exec_hostSide {i : Instr} {s t : State} (p : Option Request) (l : List HostEvent) (h : exec i s = .next t) :
    exec i { s with pending := p, inputs := l } = .next { t with inputs := l } := by
  cases i <;>
    simp only [exec, execSeedScalar, execKeyWrite, execSeedArray, execNext, execJump, execReadWord, execReadLung, execReadIndex,
      execReadInfo, runSeedArray_eq, runJump_eq, keyEntryLegal_iff, keyLengthLegal_iff, keyWritten_iff, slotLegal_iff] at h ⊢ <;>
    (repeat' split at h) <;> cases h <;> first | rfl | (repeat' split) <;> first | rfl | (exfalso; simp_all)

/-- On a state of the block, a step is the host's next event. -/
theorem turn_of_inv {s : State} (h : s.Inv) : turn s = hostTurn s := by simp only [turn, if_pos h.1, if_pos h.2]

/-- What a step that answers a next state can do: it keeps an idle block, accepts a request, ends a wait, resets, or runs the
command in progress, legal or not. It starts from a state of the block. -/
theorem step_cases {s t : State} (h : step s = .next t) :
    s.Inv ∧
    ((s.pending = none ∧ s.inputs = [] ∧ t = s) ∨
     (∃ r rest, s.pending = none ∧ s.inputs = .request r :: rest ∧ t = s.accept r rest) ∨
     (∃ rest, s.pending = none ∧ s.inputs = .wait :: rest ∧ t = s.setInputs rest) ∨
     (∃ rest, s.inputs = .reset :: rest ∧ t = s.hostReset rest) ∨
     (∃ r, s.pending = some r ∧ (s.inputs = [] ∨ ∃ rest, s.inputs = .wait :: rest) ∧
       ((∃ i, decode r = .ok i ∧ exec i (s.setInputs s.inputs.tail) = .next t) ∨
        (∃ e, decode r = .error e ∧ t = (s.setInputs s.inputs.tail).raise .illegalCommand)))) := by
  have run : ∀ r s', runRequest r s' = .next t → (∃ i, decode r = .ok i ∧ exec i s' = .next t) ∨
      (∃ e, decode r = .error e ∧ t = s'.raise .illegalCommand) := by
    intro r s' hr
    unfold runRequest at hr
    split at hr
    · exact .inl ⟨_, ‹_›, hr⟩
    · exact .inr ⟨_, ‹_›, by simpa [rejectRequest] using hr.symm⟩
  have hc : s.cfg.WellFormed := by
    by_contra hc; simp only [step, turn, if_neg hc] at h; cases h
  have hs : s.WellFormed := by
    by_contra hs; simp only [step, turn, if_pos hc, if_neg hs] at h; cases h
  refine ⟨⟨hc, hs⟩, ?_⟩
  simp only [step, turn_of_inv ⟨hc, hs⟩] at h
  rcases h1 : s.pending with _ | r <;> rcases h2 : s.inputs with _ | ⟨_ | _ | _, rest⟩ <;>
    simp only [hostTurn, h1, h2] at h
  · exact .inl ⟨rfl, rfl, by simpa using h.symm⟩
  · exact .inr (.inl ⟨_, rest, rfl, rfl, by simpa using h.symm⟩)
  · exact .inr (.inr (.inl ⟨rest, rfl, rfl, by simpa using h.symm⟩))
  · exact .inr (.inr (.inr (.inl ⟨rest, rfl, by simpa using h.symm⟩)))
  · have e : s.setInputs s.inputs.tail = s := State.eq_of_fields rfl rfl rfl rfl rfl rfl rfl (by simp [h2]) rfl
    exact .inr (.inr (.inr (.inr ⟨r, rfl, .inl rfl, by rw [← h2, e]; exact run r s h⟩)))
  · cases h
  · exact .inr (.inr (.inr (.inr ⟨r, rfl, .inr ⟨rest, rfl⟩, run r _ h⟩)))
  · exact .inr (.inr (.inr (.inl ⟨rest, rfl, by simpa using h.symm⟩)))

end Sys2Proof.Machine
end

