-- ==== Sys2Proof/Tests/Slice0.lean ====
section
/-! SUPPORT. Tests. Expected values are the spec's own: the vectors of 95_test_vectors.md, the examples of the rules, or words
written out by hand from the encodings of 30_encoding.md. The last part shows, for every statement with hypotheses, values
that meet them. -/

namespace Sys2Proof.Tests

open Sys2Proof Sys2Proof.Machine Sys2Proof.Safety

/-! ### Ill-formed commands (30_encoding.md R80) -/

theorem test_keyWrite_wide_refused : (Instr.keyWrite 16777216 0).wellFormed = false := by decide
theorem test_seedArray_wide_refused : (Instr.seedArray 16777216).wellFormed = false := by decide
theorem test_readWord_wide_refused : (Instr.readWord 16777216).wellFormed = false := by decide
theorem test_widest_immediate_allowed : (Instr.readWord 16777215).wellFormed = true := by decide

/-! ### Ill-formed records (00_scope.md R7), each refused before any command runs -/

/-- The step of a block with the record `c` right after reset is the refusal. -/
def refusesRecord (c : Config) : Bool :=
  match step (State.resetWith c) with
  | .refused .illFormedConfiguration => true
  | _ => false

theorem test_small_N_refused : refusesRecord { toyA with N := 1 } = true := by decide
theorem test_M_zero_refused : refusesRecord { toyA with M := 0 } = true := by decide
theorem test_M_is_N_refused : refusesRecord { toyA with M := 3 } = true := by decide
theorem test_L_zero_refused : refusesRecord { toyA with L := 0 } = true := by decide
theorem test_L_is_N_refused : refusesRecord { toyA with L := 3 } = true := by decide
theorem test_P_zero_refused : refusesRecord { toyA with P := 0 } = true := by decide
theorem test_P_wide_refused : refusesRecord { toyA with P := 64 } = true := by decide
theorem test_A1_zero_refused : refusesRecord { toyA with A1 := 0 } = true := by decide
theorem test_A2_wide_refused : refusesRecord { toyA with A2 := 64 } = true := by decide
theorem test_shift_zero_refused : refusesRecord { toyA with shift := 0 } = true := by decide
theorem test_keyDepth_zero_refused : refusesRecord { toyA with keyDepth := 0 } = true := by decide
theorem test_empty_literal_refused : refusesRecord { toyA with jumpPoly := some [] } = true := by decide
theorem test_zero_literal_refused : refusesRecord { toyA with jumpPoly := some ['0', '0'] } = true := by decide
theorem test_bad_digit_refused : refusesRecord { toyA with jumpPoly := some ['8', 'g'] } = true := by decide
theorem test_wide_N_refused : ¬({ toyA with N := 16777216 } : Config).WellFormed := by decide
theorem test_wide_keyDepth_refused : ¬({ toyA with keyDepth := 16777216 } : Config).WellFormed := by decide
theorem test_toyA_accepted : refusesRecord toyA = false := by decide
theorem test_toyB_accepted : refusesRecord toyB = false := by decide

/-! ### Decoding of words written out from the opcode map (30_encoding.md R75 to R77) -/

theorem test_decode_seedScalar : decode ⟨0b00000001000000000000000000000000, 0x12345⟩ = .ok (.seedScalar 0x12345) := by decide
theorem test_decode_keyWrite : decode ⟨0b00000010000000000000000000000011, 0x45678⟩ = .ok (.keyWrite 3 0x45678) := by decide
theorem test_decode_seedArray : decode ⟨0b00000011100000000000000000000100, 9⟩ = .ok (.seedArray 8388612) := by decide
theorem test_decode_next : decode ⟨0b00000100000000000000000000000000, 1⟩ = .ok .next := by decide
theorem test_decode_jump : decode ⟨0b00000101000000000000000000000000, 1⟩ = .ok .jump := by decide
theorem test_decode_readWord : decode ⟨0b00000110000000010000000000000010, 1⟩ = .ok (.readWord 65538) := by decide
theorem test_decode_readLung : decode ⟨0b00000111000000000000000000000000, 1⟩ = .ok .readLung := by decide
theorem test_decode_readIndex : decode ⟨0b00001000000000000000000000000000, 1⟩ = .ok .readIndex := by decide
theorem test_decode_readInfo : decode ⟨0b00001001000000000000000000000000, 1⟩ = .ok .readInfo := by decide
theorem test_opcode_00_reserved : decode ⟨0x00000000, 0⟩ = .error (.reservedOpcode 0x00) := by decide
theorem test_opcode_0A_reserved : decode ⟨0x0A000000, 0⟩ = .error (.reservedOpcode 0x0A) := by decide
theorem test_opcode_FF_reserved : decode ⟨0xFF000000, 0⟩ = .error (.reservedOpcode 0xFF) := by decide
theorem test_next_with_immediate_reserved : decode ⟨0x04000001, 0⟩ = .error (.reservedImmediate 0x04 1) := by decide
theorem test_info_with_immediate_reserved : decode ⟨0x09800000, 0⟩ = .error (.reservedImmediate 0x09 0x800000) := by decide
theorem test_table_word : decodeTableWord 32 0x06000002 = some (.readWord 2) := by decide
theorem test_table_word_reserved : decodeTableWord 32 0x01000001 = none := by decide

/-! ### One command, one step -/

/-- TOY-A after `seed_scalar(0)` (95_test_vectors.md V2.2). -/
def genA : GenState :=
  { words := [0x0000000000000000, 0x0000000000000001, 0x5851F42D4C957F2F], lung := 0xC0B18CCF4E252D19, index := 0 }

/-- A block with the record `c`, seeded with `g`, idle. -/
def seededWith (c : Config) (g : GenState) : State := { State.resetWith c with gen := g, seeded := true }

/-- A block with the record `c` whose first key entries are `ks`, unseeded. -/
def keyed (c : Config) (ks : List Word) : State :=
  { State.resetWith c with
    key := ks ++ List.replicate (c.keyDepth - ks.length) 0
    keyValid := List.replicate ks.length true ++ List.replicate (c.keyDepth - ks.length) false }

/-- The state after the step that runs a request. -/
def after (s : State) (cmd : BitVec 32) (data : Word) : Option State :=
  match step (s.issue ⟨cmd, data⟩) with
  | .next t => some t
  | _ => none

/-- The response to a request. -/
def answer (s : State) (cmd : BitVec 32) (data : Word) : Option Response := (after s cmd data).bind fun t => t.responses.getLast?

/-- The generator state after a request. -/
def genAfter (s : State) (cmd : BitVec 32) (data : Word) : Option GenState := (after s cmd data).map State.gen

/-- V3.1: SEED_SCALAR 0 on TOY-A. -/
theorem test_seedScalar_state : genAfter (State.resetWith toyA) 0x01000000 0 = some genA := by decide
/-- V3.3: the seed that makes `w1` zero. -/
theorem test_seedScalar_zero_word : genAfter (State.resetWith toyA) 0x01000000 0x3F681078CD61D75B =
    some ⟨[0x3F681078CD61D75B, 0, 2], 0xB0A3E85A992AFE5D, 0⟩ := by decide
/-- R132's example, and V7: `j = KEY_DEPTH`. -/
theorem test_keyWrite_entry : (after (State.resetWith toyB) 0x02000003 0x45678).map (fun t => (t.key[3]?, t.keyValid)) =
    some (some 0x45678, [false, false, false, true, false, false, false, false]) := by decide
theorem test_keyWrite_last_refused : answer (State.resetWith toyB) 0x02000008 5 = some ⟨0x02, 0⟩ := by decide
/-- V3.5: array seeding on TOY-A, `len < N` and `len > N`. -/
theorem test_seedArray_short_key : genAfter (keyed toyA [0]) 0x03000001 0 =
    some ⟨[0x81F9C8692A12650B, 0x3D52675776BC6A7F, 0x81F9C8692A12650B], 0x859B4588F60577D6, 0⟩ := by decide
theorem test_seedArray_long_key : genAfter (keyed toyA [1, 2, 3, 4]) 0x03000004 0 =
    some ⟨[0xB022B72CEB8351A0, 0x1649883E5A722DE9, 0x3022B72CEB8351A0], 0x08220C341E34D519, 0⟩ := by decide
/-- V2.2: the first step, and V2.4: the wrap. -/
theorem test_next_output : answer (seededWith toyA genA) 0x04000000 0 = some ⟨0x00, 0xC64A06A14E6CFB58⟩ := by decide
theorem test_next_wraps : genAfter (seededWith toyA ⟨[0x8000000000000000, 0, 0], 0, 2⟩) 0x04000000 0 =
    some ⟨[0x8000000000000000, 0, 0x8010000000000000], 0x8000000000000000, 0⟩ := by decide
/-- V5.1: JUMP by `1 + z^2`; V7: no polynomial beats not seeded. -/
theorem test_jump_polynomial : genAfter (seededWith toyA2 genA) 0x05000000 0 =
    some ⟨[0x5851F42D4C957F2F, 0x06405AC379DDA2B6, 0xB8228E17301BF7F4], 0x20DEFB1B84A78AB9, 0⟩ := by decide
theorem test_jump_unsupported : answer (State.resetWith toyB) 0x05000000 0 = some ⟨0x03, 0⟩ := by decide
/-- V6; V7: `i = N` beats not seeded. -/
theorem test_readWord_slot : answer (seededWith toyA genA) 0x06000002 0 = some ⟨0x00, 0x5851F42D4C957F2F⟩ := by decide
theorem test_readWord_out_of_range : answer (State.resetWith toyB) 0x06000009 0 = some ⟨0x02, 0⟩ := by decide
/-- V6; V7. -/
theorem test_readLung_value : answer (seededWith toyA genA) 0x07000000 0 = some ⟨0x00, 0xC0B18CCF4E252D19⟩ := by decide
theorem test_readLung_unseeded : answer (State.resetWith toyB) 0x07000000 0 = some ⟨0x04, 0⟩ := by decide
/-- V7; R192: the index is zero-extended. -/
theorem test_readIndex_unseeded : answer (State.resetWith toyB) 0x08000000 0 = some ⟨0x04, 0⟩ := by decide
theorem test_readIndex_value : answer (seededWith toyA ⟨[5, 6, 7], 8, 1⟩) 0x08000000 0 = some ⟨0x00, 1⟩ := by decide
/-- V6. -/
theorem test_readInfo_unseeded : answer (State.resetWith toyA) 0x09000000 0 = some ⟨0x00, 0x0000000401000003⟩ := by decide
theorem test_readInfo_seeded : answer (seededWith toyA genA) 0x09000000 0 = some ⟨0x00, 0x0000000403000003⟩ := by decide

/-! ### Step, merge, phases, assembler -/

/-- The word the host gives runs as the first command after reset. -/
theorem test_withFetchWord_runs : step (State.reset.withFetchWord 32 0x09000000) =
    .next { State.reset with responses := [⟨0x00, 0x0000000401000003⟩] } := by rfl
/-- Three words in a block of nine slots are no state of the block [log 7]. -/
theorem test_malformed_state_faults : step (seededWith toyB genA) = .fault .malformedState := by rfl
/-- V7: an illegal word. -/
theorem test_illegal_word_answer : answer (State.resetWith toyB) 0x05000001 0 = some ⟨0x01, 0⟩ := by decide
/-- V2.1. -/
theorem test_phases_toyB : (List.range 9).map (phase toyB) = [1, 1, 1, 2, 2, 3, 3, 3, 4] := by decide
/-- V4.1: `merge(a, b)` and `merge(b, a)`. -/
theorem test_merge_aligns : merge toyA ⟨[1, 2, 4], 8, 0⟩ ⟨[0x10, 0x20, 0x40], 0x80, 2⟩ = ⟨[0x41, 0x12, 0x24], 0x88, 0⟩ := by decide
theorem test_merge_other_way : merge toyA ⟨[0x10, 0x20, 0x40], 0x80, 2⟩ ⟨[1, 2, 4], 8, 0⟩ = ⟨[0x12, 0x24, 0x41], 0x88, 2⟩ := by decide
/-- V2.5: the other reading, `SPLIT_SOURCE = NEXT_HIGH`. -/
theorem test_next_high : outputs { toyB with splitSource := .nextHigh } 1 (seedScalar toyB 0x12345) = [0x5E652ADD0471F4ED] := by decide
/-- R80, R81. -/
theorem test_assembles_line : ((parseLine "KEY_WRITE 3, 0x45678 ; entry".toList).bind (assemble toyB)) =
    some [⟨0x02000003, 0x45678⟩] := by decide
theorem test_assembles_seedKey : ((parseLine "SEED_KEY 7, 8".toList).bind (assemble toyB)) =
    some [⟨0x02000000, 7⟩, ⟨0x02000001, 8⟩, ⟨0x03000002, 0⟩] := by decide
theorem test_empty_seedKey_refused : ((parseLine "SEED_KEY".toList).bind (assemble toyB)) = none := by decide

/-! ### Values that meet the hypotheses of the statements

One theorem per statement that has hypotheses, named after it; several where its clauses need different values. -/

/-- TOY-A, seeded, idle. -/
def seededA : State := seededWith toyA genA

theorem seededA_inv : State.Inv seededA := by decide
theorem resetA_inv : State.Inv (State.resetWith toyA) := by decide
theorem resetB_inv : State.Inv (State.resetWith toyB) := by decide
theorem toyA_wellFormed : toyA.WellFormed := by decide

/-- A state in which a command is in progress and the host waits. -/
theorem awaits_waiting (s : State) (r : Request) : awaitsResponse (s.issue r) r := ⟨rfl, .inr ⟨s.inputs, rfl⟩⟩
/-- A state in which a command is in progress and the host does nothing more. -/
theorem awaits_silent (r : Request) : awaitsResponse { seededA with pending := some r } r := ⟨rfl, .inl rfl⟩

theorem witness_DecodeOfEncodeIsIdentity : (Instr.keyWrite 16777215 5).wellFormed = true ∧ (Instr.seedArray 0).wellFormed = true := by
  decide

theorem witness_StepRunsDecodedCommand :
    State.Inv (seededA.issue ⟨0x04000000, 9⟩) ∧ awaitsResponse (seededA.issue ⟨0x04000000, 9⟩) ⟨0x04000000, 9⟩ ∧
    decode ⟨0x04000000, 9⟩ = .ok .next := ⟨by decide, awaits_waiting _ _, by decide⟩
theorem witness_StepRunsDecodedCommand_silent :
    State.Inv { seededA with pending := some ⟨0x04000000, 9⟩ } ∧
    awaitsResponse { seededA with pending := some ⟨0x04000000, 9⟩ } ⟨0x04000000, 9⟩ := ⟨by decide, awaits_silent _⟩

theorem witness_IssuedWordRuns : State.Inv State.reset ∧ decodeTableWord 32 0x09000000 = some .readInfo := by decide

theorem witness_DataReachesTwoCommandsOnly :
    (0x02FFFFFF : BitVec 32) &&& 0xFF000000 = 0x02000000 ∧ State.Inv (seededA.issue ⟨0x03000001, 7⟩) ∧
    awaitsResponse (seededA.issue ⟨0x03000001, 7⟩) ⟨0x03000001, 7⟩ ∧ (0x03000001 : BitVec 32) >>> 24 ≠ 0x01 ∧
    (0x03000001 : BitVec 32) >>> 24 ≠ 0x02 := ⟨by decide, by decide, awaits_waiting _ _, by decide, by decide⟩

theorem illegal_00 : illegalWord 0x00FFFFFF := by unfold illegalWord; decide
theorem illegal_0A : illegalWord 0x0A000000 := by unfold illegalWord; decide
theorem illegal_FF : illegalWord 0xFF000000 := by unfold illegalWord; decide
theorem illegal_09 : illegalWord 0x09000001 := by unfold illegalWord; decide
theorem legal_09 : ¬illegalWord 0x09000000 := by unfold illegalWord; decide
theorem witness_IllegalWordIsAnswered :
    State.Inv (seededA.issue ⟨0x0A000000, 0⟩) ∧ awaitsResponse (seededA.issue ⟨0x0A000000, 0⟩) ⟨0x0A000000, 0⟩ ∧
    illegalWord 0x0A000000 := ⟨by decide, awaits_waiting _ _, illegal_0A⟩

theorem witness_IdleBlockAcceptsRequests :
    State.Inv seededA ∧ seededA.pending = none ∧ seededA.inputs = [] := by decide
theorem witness_IdleBlockAcceptsRequests_request : State.Inv { seededA with inputs := [.request ⟨0x04000000, 0⟩] } := by decide
theorem witness_IdleBlockAcceptsRequests_wait : State.Inv { seededA with inputs := [.wait] } := by decide

theorem witness_HandshakeBreachIsRefused :
    State.Inv { seededA with pending := some ⟨0x04000000, 0⟩, inputs := [.request ⟨0x04000000, 0⟩] } ∧
    step { seededA with pending := some ⟨0x04000000, 0⟩, inputs := [.request ⟨0x04000000, 0⟩] } = .refused .handshakeBroken :=
  ⟨by decide, by rfl⟩

theorem witness_IllFormedRecordIsRefused : ¬(1 ≤ ({ toyA with M := 3 } : Config).M ∧
    ({ toyA with M := 3 } : Config).M ≤ ({ toyA with M := 3 } : Config).N - 1) := by decide
theorem witness_IllFormedRecordIsRefused_literal : ¬(∀ digits, some ['0'] = some digits →
    ∃ ch ∈ digits, ch ≠ '0') := by
  intro h
  obtain ⟨ch, hm, hn⟩ := h ['0'] rfl
  exact hn (by simpa using hm)

theorem witness_ResetClearsAndAbandons :
    State.Inv { seededA with pending := some ⟨0x05000000, 0⟩, inputs := [.reset, .wait] } ∧
    State.Inv { State.resetWith toyA with inputs := [.reset, .wait] } := by decide

theorem witness_ResetValues : 0 < toyA.keyDepth ∧ 3 < toyA.keyDepth := by decide

theorem witness_CommandsAfterReset : toyA.WellFormed ∧ 3 < toyA.keyDepth ∧ toyA.jumpPoly.isSome = true ∧ 2 < toyA.N := by decide

theorem witness_InvariantAtReset : toyB.WellFormed ∧
    ({ toyA with N := 2, M := 1, L := 1, P := 1, A1 := 63, keyDepth := 16777215 } : Config).WellFormed := by decide

theorem witness_StepKeepsInvariant : State.Inv (seededA.issue ⟨0x04000000, 0⟩) ∧ ∃ t, step (seededA.issue ⟨0x04000000, 0⟩) = .next t :=
  ⟨by decide, _, rfl⟩

theorem witness_StepKeepsRecord : ∃ t, step { seededA with inputs := [.reset] } = .next t := ⟨_, rfl⟩

theorem witness_StepCompletesUnderHandshake : State.Inv (seededA.issue ⟨0x05000000, 0⟩) ∧ keepsHandshake (seededA.issue ⟨0x05000000, 0⟩) :=
  ⟨by decide, by intro r q rest _ h; cases h⟩

/-- TOY-A after reset, with other contents where the spec leaves them unspecified. -/
def otherReset : State :=
  { State.resetWith toyA with gen := ⟨[1, 2, 3], 4, 2⟩, key := [5, 6, 7, 8], inputs := [] }

theorem witness_UnspecifiedContentsAreUnobservable :
    State.Inv (State.resetWith toyA) ∧ State.Inv otherReset ∧ (State.resetWith toyA).sameDefined otherReset ∧
    State.resetWith toyA ≠ otherReset := ⟨by decide, by decide, by unfold State.sameDefined; decide, by decide⟩

theorem witness_InstancesShareNothing :
    ∃ q, platformStep (platformReset [toyA, toyB]) 1 = .next q ∧ (platformReset [toyA, toyB])[1]? = some (State.resetWith toyB) ∧
      q[0]? = some (State.resetWith toyA) := ⟨_, rfl, rfl, rfl⟩

theorem witness_RunsAnswerEveryRequest :
    State.Inv { State.resetWith toyA with inputs := hostProgram [⟨0x04000000, 0⟩, ⟨0x01000000, 5⟩] } ∧
    (State.resetWith toyA).pending = none := by decide

/-- The first response of that run is the one its first request is answered with right after reset, the second the one its
second request is answered with in the state the first left. -/
theorem witness_RunsAnswerEveryRequest_order : ∃ u, composition [⟨0x04000000, 0⟩] (State.resetWith toyA) = .next u ∧
    answeredWith (State.resetWith toyA) ⟨0x04000000, 0⟩ ⟨0x04, 0⟩ ∧ answeredWith u ⟨0x01000000, 5⟩ ⟨0x00, 0⟩ :=
  ⟨_, rfl, ⟨_, rfl, rfl⟩, ⟨_, rfl, rfl⟩⟩

theorem witness_FailedCommandChangesNothing :
    exec .next (State.resetWith toyA) = .next { State.resetWith toyA with responses := [⟨0x04, 0⟩] } := by rfl

theorem witness_ErrorPriority :
    State.Inv ((State.resetWith toyB).issue ⟨0x05000001, 0⟩) ∧
    awaitsResponse ((State.resetWith toyB).issue ⟨0x05000001, 0⟩) ⟨0x05000001, 0⟩ ∧ illegalWord 0x05000001 :=
  ⟨by decide, awaits_waiting _ _, by unfold illegalWord; decide⟩
theorem witness_ErrorPriority_argument : decode ⟨0x06000009, 0⟩ = .ok (.readWord 9) ∧ statusFor (.readWord 9) (State.resetWith toyB) 0x02 :=
  ⟨by decide, .inl ⟨by simp [badArgument, toyB, State.resetWith], rfl⟩⟩
theorem witness_ErrorPriority_unsupported : decode ⟨0x05000000, 0⟩ = .ok .jump ∧ statusFor .jump (State.resetWith toyB) 0x03 :=
  ⟨by decide, .inr (.inl ⟨id, rfl, rfl⟩)⟩
theorem witness_ErrorPriority_unseeded : decode ⟨0x05000000, 0⟩ = .ok .jump ∧ statusFor .jump (State.resetWith toyA) 0x04 :=
  ⟨by decide, .inr (.inr (.inl ⟨id, by simp [lacksJump, toyA, State.resetWith], rfl, rfl⟩))⟩
theorem witness_ErrorPriority_key : decode ⟨0x03000001, 0⟩ = .ok (.seedArray 1) ∧ statusFor (.seedArray 1) (State.resetWith toyB) 0x05 :=
  ⟨by decide, .inr (.inr (.inr (.inl ⟨by simp [badArgument, toyB, State.resetWith], id, id, ⟨0, by decide, by decide⟩, rfl⟩)))⟩
theorem witness_ErrorPriority_success : decode ⟨0x09000000, 0⟩ = .ok .readInfo ∧ statusFor .readInfo (State.resetWith toyB) 0x00 :=
  ⟨by decide, .inr (.inr (.inr (.inr ⟨id, id, id, id, rfl⟩)))⟩

theorem witness_InvalidArgumentIsReported : toyA.keyDepth ≤ 4 ∧ toyA.keyDepth < 5 ∧ toyA.N ≤ 3 := by decide

theorem witness_JumpWithoutPolynomialIsUnsupported : (seededWith toyB genA).cfg.jumpPoly = none := by rfl

theorem witness_UnseededCommandsFail : (State.resetWith toyA).seeded = false ∧ toyA.jumpPoly.isSome = true ∧ 2 < toyA.N := by decide

theorem witness_UnwrittenKeyIsReported : 2 ≤ toyA.keyDepth ∧ (keyed toyA [5]).keyValid[1]? = some false := by decide

theorem witness_KeyRamPersists : (∃ t, exec (.keyWrite 3 9) seededA = .next t) ∧ (∃ t, exec .next seededA = .next t) ∧
    (keyed toyA [5]).keyValid[0]? = some true := ⟨⟨_, rfl⟩, ⟨_, rfl⟩, by decide⟩

theorem witness_SeededIsSetBySeedingOnly : ∃ t, exec (.seedScalar 5) (State.resetWith toyA) = .next t ∧
    t.seeded ≠ (State.resetWith toyA).seeded ∧ t.responses = (State.resetWith toyA).responses ++ [⟨0x00, 0⟩] :=
  ⟨_, rfl, by decide, rfl⟩

theorem witness_IndexMovement : State.Inv seededA ∧ (∃ t, exec .next seededA = .next t) ∧
    (∃ t, exec (.seedScalar 1) seededA = .next t ∧ t.responses = seededA.responses ++ [⟨0x00, 0⟩]) ∧
    (∃ t, exec .readLung seededA = .next t) := ⟨by decide, ⟨_, rfl⟩, ⟨_, rfl, rfl⟩, ⟨_, rfl⟩⟩

theorem witness_ReadsChangeNothing : (∃ t, exec (.keyWrite 3 9) seededA = .next t) ∧ (∃ t, exec (.readWord 2) seededA = .next t) :=
  ⟨⟨_, rfl⟩, ⟨_, rfl⟩⟩

theorem witness_NextStepsAndOutputs : seededA.seeded = true := by rfl

theorem witness_NextChangesThreePlaces : State.Inv (seededWith toyA ⟨[5, 6, 7], 8, 2⟩) ∧ (seededWith toyA ⟨[5, 6, 7], 8, 2⟩).seeded = true := by
  decide

theorem witness_StepIsLinear : toyA.WellFormed ∧ genA.WellFormed toyA ∧ GenState.WellFormed toyA ⟨[5, 6, 7], 8, 0⟩ := by decide

/-- `genA`'s logical view at another rotation. -/
def rotatedA : GenState := ⟨[0x5851F42D4C957F2F, 0, 1], 0xC0B18CCF4E252D19, 1⟩

theorem witness_LogicalViewFixesOutputs : GenState.WellFormed toyA genA ∧ GenState.WellFormed toyA rotatedA ∧
    logicalView toyA genA = logicalView toyA rotatedA ∧ genA ≠ rotatedA := by decide
theorem witness_LogicalViewFixesOutputs_deadBits : toyA.splitSource = .indexHigh ∧
    sameLive toyA genA { genA with words := [0x7FFFFFFF, 1, 0x5851F42D4C957F2F] } := by
  refine ⟨rfl, by decide, ?_, rfl⟩
  intro j h1 h2
  have h3 : j < 3 := h2
  interval_cases j <;> decide

theorem witness_PhasesGiveSlotNumbers : toyB.WellFormed ∧ 8 < toyB.N ∧ phase toyB 0 = 1 ∧ phase toyB 2 = 1 ∧ phase toyB 3 = 2 ∧
    phase toyB 5 = 3 ∧ phase toyB 8 = 4 ∧ toyB.M < toyB.L := by decide
theorem witness_PhasesGiveSlotNumbers_swapped : ({ toyB with M := 6, L := 4 } : Config).WellFormed ∧
    phase { toyB with M := 6, L := 4 } 4 = 2 := by decide

theorem witness_ScalarSeedWords : 2 ≤ toyA.N ∧ 1 ≤ 2 ∧ 2 < toyA.N := by decide

theorem witness_KeyWriteStoresEntry : State.Inv seededA ∧ 0 < seededA.cfg.keyDepth ∧ 3 < seededA.cfg.keyDepth := by decide

theorem witness_SeedArrayReplacesState : 4 ≤ toyA.keyDepth ∧ ∀ j, j < 4 → (keyed toyA [1, 2, 3, 4]).keyValid[j]? = some true := by decide

theorem witness_ArraySeedEndsFolded : toyA.WellFormed := toyA_wellFormed

theorem witness_SeedingNeverYieldsZero : toyB.WellFormed := by decide

theorem witness_SeedingIsDetermined : (keyed toyA [5]).cfg = ({ keyed toyA [5, 6] with gen := genA, seeded := true } : State).cfg ∧
    1 ≤ (keyed toyA [5]).cfg.keyDepth ∧ ∀ j, j < 1 → (keyed toyA [5]).keyValid[j]? = some true ∧
      (keyed toyA [5, 6]).keyValid[j]? = some true ∧ (keyed toyA [5]).key[j]? = (keyed toyA [5, 6]).key[j]? := by decide

theorem witness_MergeAddsLogicalWords : toyA.WellFormed ∧ genA.WellFormed toyA ∧ rotatedA.WellFormed toyA := by decide

/-- Indices 0 and 2: slot 0 in the first range, 1 in the second; 1 and 2: slot 0 in the third; 2 and 0: both mirror ranges. -/
theorem witness_MergeThreeRanges : GenState.WellFormed toyA ⟨[1, 2, 4], 8, 0⟩ ∧ GenState.WellFormed toyA ⟨[1, 2, 4], 8, 1⟩ ∧
    GenState.WellFormed toyA ⟨[1, 2, 4], 8, 2⟩ ∧
    (0 < toyA.N - (2 - 0)) ∧ (toyA.N - (2 - 0) ≤ 1 ∧ 1 < toyA.N) ∧ (1 ≤ 2 ∧ 0 < 1) ∧ (0 < 2 ∧ 2 - 0 ≤ 2) ∧ 1 < 2 - 0 := by decide

theorem witness_MergeAlgebra : toyA.WellFormed ∧ genA.WellFormed toyA ∧ rotatedA.WellFormed toyA ∧ (2 : BitVec 24).toNat < toyA.N ∧
    logicalView toyA genA = logicalView toyA rotatedA := by decide

theorem witness_JumpReplacesState : (seededWith toyA2 genA).cfg.jumpPoly = some ['A'] ∧ (seededWith toyA2 genA).seeded = true := by decide

theorem witness_JumpSumsSteppedStates : toyA.WellFormed ∧ genA.WellFormed toyA := by decide

/-- A polynomial has no bit beyond its literal. -/
theorem polyBit_beyond {digits : List Char} {k : Nat} (h : 4 * digits.length ≤ k) : polyBit digits k = false := by
  have : digits[k / 4]? = none := List.getElem?_eq_none (by omega)
  simp [polyBit, polyDigit, List.getD_eq_getElem?_getD, this, hexValue]

/-- The ends of the three ranges of hex digits. -/
theorem witness_PolyBitsReadDigits : (['0', '9', 'a', 'f', 'A', 'F'] : List Char)[5]? = some 'F' ∧
    ['0', '9', 'a', 'f', 'A', 'F'].map Char.toNat = [48, 57, 97, 102, 65, 70] ∧
    (List.range 6).map (polyDigit ['0', '9', 'a', 'f', 'A', 'F']) = [0, 9, 10, 15, 10, 15] := by decide

theorem witness_MonomialJumpIsStepping : toyA.WellFormed ∧ genA.WellFormed toyA ∧ ∀ m, polyBit ['1'] m = true ↔ m = 3 := by
  refine ⟨by decide, by decide, fun m => ?_⟩
  by_cases h : m < 4
  · interval_cases m <;> decide
  · rw [polyBit_beyond (show 4 * ['1'].length ≤ m by simpa using h)]; constructor
    · intro h2; cases h2
    · omega
theorem witness_MonomialJumpIsStepping_zero : ∀ m, polyBit ['8'] m = true ↔ m = 0 := by
  intro m
  by_cases h : m < 4
  · interval_cases m <;> decide
  · rw [polyBit_beyond (show 4 * ['8'].length ≤ m by simpa using h)]; constructor
    · intro h2; cases h2
    · omega

theorem witness_JumpCommutesWithNext : toyA.WellFormed ∧ genA.WellFormed toyA := by decide

/-- `(z + z^2) · (1 + z^3) = z + z^2 + z^4 + z^5`. -/
theorem witness_JumpsCompose : toyA.WellFormed ∧ genA.WellFormed toyA ∧ ∀ k, polyBit ['6', 'C'] k =
    ((List.range (k + 1)).map fun i => polyBit ['6'] i && polyBit ['9'] (k - i)).foldl Bool.xor false := by
  refine ⟨by decide, by decide, fun k => ?_⟩
  by_cases h : k < 8
  · interval_cases k <;> decide
  · rw [polyBit_beyond (show 4 * ['6', 'C'].length ≤ k by simpa using h)]
    have e : ((List.range (k + 1)).map fun i => polyBit ['6'] i && polyBit ['9'] (k - i)) = List.replicate (k + 1) false := by
      rw [List.eq_replicate_iff]
      refine ⟨by simp, ?_⟩
      intro b hb
      obtain ⟨i, -, rfl⟩ := List.mem_map.1 hb
      by_cases hi : i < 4
      · rw [polyBit_beyond (digits := ['9']) (k := k - i) (by simp; omega), Bool.and_false]
      · rw [polyBit_beyond (digits := ['6']) (k := i) (by simpa using hi), Bool.false_and]
    rw [e]
    generalize k + 1 = n
    induction n with
    | zero => rfl
    | succ n ih => simpa [List.replicate_succ] using ih

theorem witness_ReadWordReturnsSlot : seededA.seeded = true ∧ 2 < seededA.cfg.N ∧ seededA.gen.words[2]? = some 0x5851F42D4C957F2F := by decide

theorem witness_ReadLungReturnsLung : seededA.seeded = true := by rfl

theorem witness_ReadIndexReturnsIndex : State.Inv (seededWith toyA rotatedA) ∧ (seededWith toyA rotatedA).seeded = true := by decide

theorem witness_ReadInfoReturnsFields : (State.resetWith toyB).cfg.WellFormed := by decide

theorem witness_SeedKeyExpands : toyA.WellFormed ∧ (∀ k ∈ [1, 18446744073709551615], k < 2 ^ 64) ∧ 1 ≤ [1].length ∧
    [1, 2, 3, 4].length ≤ toyA.keyDepth ∧ toyA.keyDepth < [1, 2, 3, 4, 5].length ∧ ([1, 2, 3, 4] : List Nat)[3]? = some 4 := by decide

theorem witness_AssemblerRefusesWideImmediates : 2 ^ 24 ≤ 16777216 ∧ (Instr.seedArray 16777215).wellFormed = true := by decide

end Sys2Proof.Tests
end

/-! The statements of 00_scope.md: a record outside R7 is refused (O11), and no step changes the record (O17). -/

namespace Sys2Proof.Machine

/-! ### The well-formedness check reads as the conditions of R7 -/

/-- A hex digit in the character codes of its three ranges (20_memory.md R53). -/
theorem hexValue_isSome_iff (ch : Char) : (hexValue ch).isSome = true ↔
    (48 ≤ ch.toNat ∧ ch.toNat ≤ 57) ∨ (97 ≤ ch.toNat ∧ ch.toNat ≤ 102) ∨ (65 ≤ ch.toNat ∧ ch.toNat ≤ 70) := by
  simp only [hexValue]
  split
  · simp [*]
  split
  · simp [*]
  split <;> simp [*]

/-- `'0'` is the one character with the digit value 0: the letters count from 10 (20_memory.md R53). -/
theorem hexValue_eq_zero_iff (ch : Char) : hexValue ch = some 0 ↔ ch = '0' := by
  have code : ch = '0' ↔ ch.toNat = 48 := Char.toNat_inj.symm
  rw [code]
  simp only [hexValue]
  split
  · rw [Option.some_inj]; omega
  split
  · rw [Option.some_inj]; omega
  split
  · rw [Option.some_inj]; omega
  · simp only [reduceCtorEq, false_iff]; omega

theorem literalWellFormed_iff (digits : List Char) : literalWellFormed digits = true ↔
    1 ≤ digits.length ∧
    (∀ ch ∈ digits, (48 ≤ ch.toNat ∧ ch.toNat ≤ 57) ∨ (97 ≤ ch.toNat ∧ ch.toNat ≤ 102) ∨ (65 ≤ ch.toNat ∧ ch.toNat ≤ 70)) ∧
    ∃ ch ∈ digits, ch ≠ '0' := by
  simp only [literalWellFormed, Bool.and_eq_true, List.all_eq_true, List.any_eq_true, bne_iff_ne, ne_eq,
    hexValue_isSome_iff, hexValue_eq_zero_iff, and_assoc]
  simp [Nat.one_le_iff_ne_zero]

/-- A record without a literal passes (00_scope.md R6). -/
theorem jumpPolyWellFormed_iff (poly : Option (List Char)) : jumpPolyWellFormed poly = true ↔
    ∀ digits, poly = some digits → literalWellFormed digits = true := by
  cases poly with
  | none => simp [jumpPolyWellFormed]
  | some digits => simp [jumpPolyWellFormed]

/-- The record is looked at before the state and before the host's next event (00_scope.md R7). -/
theorem step_of_not_wellFormed {s : State} (h : ¬s.cfg.WellFormed) : step s = .refused .illFormedConfiguration := by
  have ht : turn s = .refuses .illFormedConfiguration := if_neg h
  rw [step, ht]

/-- Settles O11: the check that `step` makes first is the conjunction of R7's conditions. -/
theorem illFormedRecordIsRefused : Obligations.IllFormedRecordIsRefused := by
  unfold Obligations.IllFormedRecordIsRefused
  intro s outsideR7
  apply step_of_not_wellFormed
  intro hc
  obtain ⟨hN, hM, hL, hP, hA1, hA2, hshift, hdepth, hpoly⟩ := hc
  have literal := (jumpPolyWellFormed_iff s.cfg.jumpPoly).1 hpoly
  exact outsideR7 ⟨hN, hM, hL, hP, hA1, hA2, hshift, hdepth, fun digits hd =>
    (literalWellFormed_iff digits).1 (literal digits hd)⟩

/-! ### The record is constant -/

/-- No command writes the record (00_scope.md R6): neither an error nor any of the effects of success does. -/
theorem exec_cfg {i : Instr} {s t : State} (h : exec i s = .next t) : t.cfg = s.cfg := by
  obtain ⟨e, rfl⟩ | ⟨d, -, rfl⟩ | ⟨j, d, -, -, rfl⟩ | ⟨len, -, -, -, rfl⟩ | ⟨-, -, rfl⟩ | ⟨digits, -, -, -, rfl⟩ |
    ⟨rd, -, -, rfl⟩ := exec_cases h
  case inl => exact State.raise_cfg s e
  all_goals simp only [State.succeed_cfg, State.seed_cfg, State.keyWrite_cfg, State.setSequencer_cfg, State.loadGen_cfg]

/-- Settles O17, by the cases of what a step can do; a host's reset keeps the record too (10_state.md R38). -/
theorem stepKeepsRecord : Obligations.StepKeepsRecord := by
  unfold Obligations.StepKeepsRecord
  intro s t h
  obtain ⟨-, idle | accepted | waited | reset | ran⟩ := step_cases h
  · obtain ⟨-, -, rfl⟩ := idle
    rfl
  · obtain ⟨r, rest, -, -, rfl⟩ := accepted
    exact State.accept_cfg s r rest
  · obtain ⟨rest, -, -, rfl⟩ := waited
    exact State.setInputs_cfg s rest
  · obtain ⟨rest, -, rfl⟩ := reset
    exact State.hostReset_cfg s rest
  · obtain ⟨r, -, -, ⟨i, -, hexec⟩ | ⟨e, -, rfl⟩⟩ := ran
    · exact (exec_cfg hexec).trans (State.setInputs_cfg s _)
    · rw [State.raise_cfg, State.setInputs_cfg]

end Sys2Proof.Machine

/-! The statements of 10_state.md. First what a command does to each part of the state: the invariant (O15, O16), `seeded`
(O30), `index` (O31), the three places NEXT writes (O34); then reset (O13), the issued word (O6) and the platform (O20). -/

namespace Sys2Proof.Machine

/-! ### The generator states the commands make are well formed -/

theorem seedScalar_wellFormed {c : Config} (hc : c.WellFormed) (seed : Word) : (seedScalar c seed).WellFormed c :=
  ⟨seedScalar_words_length seed (by omega), show 0 < c.N by omega⟩

theorem seedArray_wellFormed {c : Config} (hc : c.WellFormed) (key : List Word) (len : Nat) :
    (seedArray c key len).WellFormed c := by
  refine ⟨seedArray_words_length key len (by omega), ?_⟩
  rw [seedArray_index]
  exact show 0 < c.N by omega

/-- A jump keeps `index`, so it stays in range (42_jump_merge.md R165). -/
theorem jump_wellFormed {c : Config} {g : GenState} (hg : g.WellFormed c) (digits : List Char) :
    (jump c digits g).WellFormed c := by
  refine ⟨jump_words_length c digits g, ?_⟩
  rw [jump_index]
  exact hg.2

/-- A step advances `index` by one modulo `N`; the 24-bit field loses nothing (40_recurrence.md R106). -/
theorem stepState_index_toNat {c : Config} (hc : c.WellFormed) (g : GenState) :
    (stepState c g).index.toNat = (g.index.toNat + 1) % c.N := by
  rw [stepState_index, index_toNat_of_lt (slotAt_lt c g 1 (by omega)) hc.1.2]
  rfl

/-! ### Every update keeps the invariant -/

/-- While seeded, `S` has the shape of 00_scope.md R10 (10_state.md R33). -/
theorem State.Inv.gen_wellFormed {s : State} (h : s.Inv) (hs : s.seeded = true) : s.gen.WellFormed s.cfg := by
  obtain ⟨-, ⟨hwords, -, -⟩, hindex, -⟩ := h
  exact ⟨hwords, hindex hs⟩

theorem State.Inv.loadGen {s : State} {g : GenState} (h : s.Inv) (hg : g.WellFormed s.cfg) : (s.loadGen g).Inv := by
  obtain ⟨hc, hmem, -, hidle⟩ := h
  exact ⟨hc, Memory.wf_loadGen hmem hg.1, fun _ => hg.2, hidle⟩

theorem State.Inv.seed {s : State} {g : GenState} (h : s.Inv) (hg : g.WellFormed s.cfg) : (s.seed g).Inv := by
  obtain ⟨hc, hmem, -, hidle⟩ := h
  exact ⟨hc, Memory.wf_seed hmem hg.1, fun _ => hg.2, hidle⟩

theorem State.Inv.keyWrite {s : State} (h : s.Inv) (j : Nat) (v : Word) : (s.keyWrite j v).Inv := by
  obtain ⟨hc, hmem, hindex, hidle⟩ := h
  exact ⟨hc, Memory.wf_keyWrite j v hmem, hindex, hidle⟩

theorem State.Inv.setSequencer_idle {s : State} (h : s.Inv) : (s.setSequencer .idle).Inv := by
  obtain ⟨hc, hmem, hindex, -⟩ := h
  exact ⟨hc, Memory.wf_setSequencer .idle hmem, hindex, rfl⟩

/-! The invariant speaks of nothing that a response or the host's side writes. -/

theorem State.Inv.succeed {s : State} (h : s.Inv) (rd : Word) : (s.succeed rd).Inv := h
theorem State.Inv.raise {s : State} (h : s.Inv) (e : ErrorCode) : (s.raise e).Inv := h
theorem State.Inv.setInputs {s : State} (h : s.Inv) (rest : List HostEvent) : (s.setInputs rest).Inv := h
theorem State.Inv.accept {s : State} (h : s.Inv) (r : Request) (rest : List HostEvent) : (s.accept r rest).Inv := h
theorem State.Inv.issue {s : State} (h : s.Inv) (r : Request) : (s.issue r).Inv := h

/-- After reset the block is unseeded, so nothing is asked of `index` (10_state.md R33, R38). -/
theorem State.Inv.resetWith {c : Config} (hc : c.WellFormed) : (State.resetWith c).Inv :=
  ⟨hc, Memory.wf_resetWith c, fun hs => absurd hs Bool.false_ne_true, rfl⟩

theorem State.Inv.hostReset {s : State} (h : s.Inv) (rest : List HostEvent) : (s.hostReset rest).Inv :=
  State.Inv.resetWith h.1

/-- Settles O15: the reset state of any well-formed record, that of `State.reset` among them, meets the invariant. -/
theorem invariantAtReset : Obligations.InvariantAtReset := by
  unfold Obligations.InvariantAtReset
  have builtConfig_wellFormed : builtConfig.WellFormed := by decide
  exact ⟨State.Inv.resetWith builtConfig_wellFormed, fun c hc => State.Inv.resetWith hc⟩

/-- No command leaves the block's states: an error changes nothing, and each success puts a well-formed `S` in place. -/
theorem exec_keeps_inv {i : Instr} {s t : State} (hs : s.Inv) (h : exec i s = .next t) : t.Inv := by
  obtain ⟨e, rfl⟩ | ⟨d, -, rfl⟩ | ⟨j, d, -, -, rfl⟩ | ⟨len, -, -, -, rfl⟩ | ⟨-, hseeded, rfl⟩ |
    ⟨digits, -, hseeded, -, rfl⟩ | ⟨rd, -, -, rfl⟩ := exec_cases h
  · exact hs.raise e
  · exact (hs.seed (seedScalar_wellFormed hs.1 d)).succeed 0
  · exact (hs.keyWrite j d).succeed 0
  · exact (hs.seed (seedArray_wellFormed hs.1 s.key len)).setSequencer_idle.succeed 0
  · exact (hs.loadGen (stepState_wellFormed hs.1 (hs.gen_wellFormed hseeded))).succeed _
  · exact (hs.loadGen (jump_wellFormed (hs.gen_wellFormed hseeded) digits)).setSequencer_idle.succeed 0
  · exact hs.succeed rd

/-- Settles O16, by the cases of what a step can do. -/
theorem stepKeepsInvariant : Obligations.StepKeepsInvariant := by
  unfold Obligations.StepKeepsInvariant
  intro s t hs h
  obtain ⟨-, idle | accepted | waited | reset | ran⟩ := step_cases h
  · obtain ⟨-, -, rfl⟩ := idle
    exact hs
  · obtain ⟨r, rest, -, -, rfl⟩ := accepted
    exact hs.accept r rest
  · obtain ⟨rest, -, -, rfl⟩ := waited
    exact hs.setInputs rest
  · obtain ⟨rest, -, rfl⟩ := reset
    exact hs.hostReset rest
  · obtain ⟨r, -, -, ⟨i, -, hexec⟩ | ⟨e, -, rfl⟩⟩ := ran
    · exact exec_keeps_inv (hs.setInputs s.inputs.tail) hexec
    · exact (hs.setInputs s.inputs.tail).raise .illegalCommand

/-! ### `seeded` and `index` under a command -/

/-- The two seeding commands (10_state.md R24). -/
abbrev IsSeeding (i : Instr) : Prop := (∃ d, i = .seedScalar d) ∨ ∃ len, i = .seedArray len

/-- NEXT on a seeded block (40_recurrence.md R110). -/
theorem exec_next_of_seeded {s : State} (hs : s.seeded = true) :
    exec .next s = .next ((s.loadGen (stepState s.cfg s.gen)).succeed (stepOutput s.cfg s.gen)) := if_pos hs

/-- The status of an error is not that of success (60_exceptions.md R211). -/
theorem raise_responses_ne_success (s : State) (e : ErrorCode) (rd : Word) :
    (s.raise e).responses ≠ s.responses ++ [⟨0x00, rd⟩] := by
  rw [State.raise_responses]
  intro h
  obtain ⟨status_eq, -⟩ : e.status = 0x00 ∧ 0 = rd := by simpa using h
  cases e <;> exact absurd status_eq (by decide)

/-- `seeded` and `index` after a command: an error leaves the whole state; a seeding command that succeeds sets the one and
clears the other; every other command leaves `seeded`, and `index` too if it is not NEXT (10_state.md R23, R24). -/
theorem exec_seeded_index {i : Instr} {s t : State} (h : exec i s = .next t) :
    (∃ e, t = s.raise e) ∨
    (IsSeeding i ∧ t.seeded = true ∧ t.gen.index = 0 ∧ t.responses = s.responses ++ [⟨0x00, 0⟩]) ∨
    (¬IsSeeding i ∧ t.seeded = s.seeded ∧ (i ≠ .next → t.gen.index = s.gen.index)) := by
  obtain error | ⟨d, rfl, rfl⟩ | ⟨j, d, rfl, -, rfl⟩ | ⟨len, rfl, -, -, rfl⟩ | ⟨rfl, -, rfl⟩ | ⟨digits, rfl, -, -, rfl⟩ |
    ⟨rd, read, -, rfl⟩ := exec_cases h
  · exact .inl error
  · exact .inr (.inl ⟨.inl ⟨d, rfl⟩, rfl, rfl, rfl⟩)
  · exact .inr (.inr ⟨by simp, rfl, fun _ => rfl⟩)
  · exact .inr (.inl ⟨.inr ⟨len, rfl⟩, rfl, seedArray_index s.cfg s.key len, rfl⟩)
  · exact .inr (.inr ⟨by simp, rfl, fun notNext => absurd rfl notNext⟩)
  · exact .inr (.inr ⟨by simp, rfl, fun _ => jump_index s.cfg digits s.gen⟩)
  · refine .inr (.inr ⟨?_, rfl, fun _ => rfl⟩)
    obtain ⟨k, rfl⟩ | rfl | rfl | rfl := read <;> simp

/-- Settles O30, by the three ways a command can end. -/
theorem seededIsSetBySeedingOnly : Obligations.SeededIsSetBySeedingOnly := by
  unfold Obligations.SeededIsSetBySeedingOnly
  intro i s t h
  obtain ⟨e, rfl⟩ | ⟨seeding, set, -, ok⟩ | ⟨notSeeding, kept, -⟩ := exec_seeded_index h
  · exact ⟨id, fun changed => absurd (State.raise_seeded s e) changed,
      fun _ ok => absurd ok (raise_responses_ne_success s e 0)⟩
  · exact ⟨fun _ => set, fun _ => ⟨seeding, ok⟩, fun _ _ => set⟩
  · exact ⟨kept.trans, fun changed => absurd kept changed, fun seeding => absurd seeding notSeeding⟩

/-- Settles O31: NEXT by its equation, the rest by the three ways a command can end. -/
theorem indexMovement : Obligations.IndexMovement := by
  unfold Obligations.IndexMovement
  intro i s t hs h
  refine ⟨?_, ?_⟩
  · rintro rfl hseeded
    rw [exec_next_of_seeded hseeded] at h
    cases h
    exact stepState_index_toNat hs.1 s.gen
  · obtain ⟨e, rfl⟩ | ⟨seeding, -, zero, -⟩ | ⟨notSeeding, -, kept⟩ := exec_seeded_index h
    · exact ⟨fun _ ok => absurd ok (raise_responses_ne_success s e 0), fun _ _ _ => by rw [State.raise_gen]⟩
    · refine ⟨fun _ _ => zero, fun _ notScalar notArray => ?_⟩
      obtain ⟨d, rfl⟩ | ⟨len, rfl⟩ := seeding
      · exact absurd rfl (notScalar d)
      · exact absurd rfl (notArray len)
    · exact ⟨fun seeding => absurd seeding notSeeding, fun notNext _ _ => kept notNext⟩

/-! ### The three places NEXT writes -/

/-- A step leaves every slot but the one at the old `index` (10_state.md R35). -/
theorem stepState_words_getElem?_ne (c : Config) {g : GenState} {k : Nat} (hk : k ≠ g.index.toNat) :
    (stepState c g).words[k]? = g.words[k]? := by
  rw [stepState_words, List.getElem?_set_ne hk.symm]

/-- Settles O34: the tempering slot lies `L` further on, `0 < L < N`, so it is not the one written. -/
theorem nextChangesThreePlaces : Obligations.NextChangesThreePlaces := by
  unfold Obligations.NextChangesThreePlaces
  intro s hs hseeded
  have hgen := hs.gen_wellFormed hseeded
  obtain ⟨hc, -⟩ := hs
  have tempering_ne : (s.gen.index.toNat + s.cfg.L) % s.cfg.N ≠ s.gen.index.toNat :=
    slotAt_ne_index (c := s.cfg) hgen.2 (by omega) (by omega)
  exact ⟨_, exec_next_of_seeded hseeded, (stepState_wellFormed hc hgen).1,
    fun k hk => stepState_words_getElem?_ne s.cfg hk, stepState_words_getElem?_ne s.cfg tempering_ne,
    stepState_index_toNat hc s.gen, rfl⟩

/-! ### Reset, the issued word, the platform -/

/-- The INFO word of an unseeded block: bit 25 is 0, and bit 24 shows the jump polynomial (10_state.md R28). -/
theorem infoWord_unseeded (c : Config) : infoWord c false =
    (BitVec.ofNat 64 c.N ||| (if c.jumpPoly.isSome then 0x1000000 else 0)) ||| BitVec.ofNat 64 c.keyDepth <<< 32 := by
  cases hpoly : c.jumpPoly <;> simp [infoWord, flagWord, jumpSupported, hpoly]

/-- Settles O13: the fields by computation, the INFO word by `infoWord_unseeded`. -/
theorem resetValues : Obligations.ResetValues := by
  unfold Obligations.ResetValues
  intro c
  have valid_bit (j : Nat) (hj : j < c.keyDepth) : (State.resetWith c).keyValid[j]? = some false := by
    rw [State.resetWith_keyValid, List.getElem?_replicate, if_pos hj]
  exact ⟨rfl, valid_bit, List.length_replicate, rfl, rfl, rfl, infoWord_unseeded c⟩

/-- A 32-bit number is a command word with the data word 0. -/
theorem requestOfBits_mod (w : Nat) : requestOfBits (w % 2 ^ 32) = ⟨BitVec.ofNat 32 w, 0⟩ := by
  have hw := Nat.mod_lt w (show 0 < 2 ^ 32 by norm_num)
  have data_zero : w % 2 ^ 32 / 2 ^ 32 = 0 := Nat.div_eq_of_lt hw
  have cmd_mod : BitVec.ofNat 32 (w % 2 ^ 32) = BitVec.ofNat 32 w := by
    apply BitVec.eq_of_toNat_eq
    simp only [BitVec.toNat_ofNat, Nat.mod_mod]
  rw [requestOfBits, data_zero, cmd_mod]
  rfl

/-- The step after a request is issued to a state of the block runs that request, the host's wait being over
(30_encoding.md R82). -/
theorem step_issue {s : State} (hs : s.Inv) (r : Request) :
    step (s.issue r) = runRequest r { s with pending := some r } := by
  rw [step, turn_of_inv (hs.issue r)]
  rfl

theorem runRequest_of_decode {r : Request} {i : Instr} (h : decode r = .ok i) (s : State) : runRequest r s = exec i s := by
  rw [runRequest, h]

theorem eq_ok_of_toOption {ε α : Type} {x : Except ε α} {a : α} (h : x.toOption = some a) : x = .ok a := by
  cases x with
  | error e => cases h
  | ok b => exact congrArg Except.ok (Option.some_inj.1 h)

/-- Settles O6: the word is the issued request's, and the step after it runs that request. -/
theorem issuedWordRuns : Obligations.IssuedWordRuns := by
  unfold Obligations.IssuedWordRuns
  intro s w i hs hw
  have hdecode : decode ⟨BitVec.ofNat 32 w, 0⟩ = .ok i := by
    rw [decodeTableWord, requestOfBits_mod] at hw
    exact eq_ok_of_toOption hw
  rw [State.withFetchWord, requestOfBits_mod, step_issue hs, runRequest_of_decode hdecode]

/-- What a transition of a platform can do: nothing, where the number names none of its blocks, or one step of the
block it names (10_state.md R39). -/
theorem platformStep_cases {p q : List State} {k : Nat} (h : platformStep p k = .next q) :
    (p[k]? = none ∧ q = p) ∨ ∃ s t, p[k]? = some s ∧ step s = .next t ∧ q = p.set k t := by
  rw [platformStep] at h
  cases hk : p[k]? with
  | none =>
    rw [hk] at h
    cases h
    exact .inl ⟨rfl, rfl⟩
  | some s =>
    simp only [hk] at h
    cases hstep : step s with
    | next t => exact .inr ⟨s, t, rfl, hstep, by simpa [hstep] using h.symm⟩
    | fault x => simp [hstep] at h
    | refused x => simp [hstep] at h

/-- Settles O20, by the cases of what a platform's transition can do. -/
theorem instancesShareNothing : Obligations.InstancesShareNothing := by
  unfold Obligations.InstancesShareNothing
  intro p q k h
  obtain ⟨hk, rfl⟩ | ⟨s, t, hk, hstep, rfl⟩ := platformStep_cases h
  · exact ⟨rfl, fun _ _ => rfl, fun s hs => absurd (hk.symm.trans hs) (by simp)⟩
  · have hlt : k < p.length := (List.getElem?_eq_some_iff.1 hk).1
    refine ⟨List.length_set, fun j hj => List.getElem?_set_ne hj.symm, fun s' hs' => ?_⟩
    obtain rfl : s = s' := Option.some_inj.1 (hk.symm.trans hs')
    exact ⟨t, hstep, List.getElem?_set_self hlt⟩

end Sys2Proof.Machine

/-! What the spec leaves unspecified is unobservable (O19). Two states that agree on all that is defined take each guard of a
command alike, and every update keeps their agreement. -/

namespace Sys2Proof.Machine

/-! ### The visible key entries -/

theorem visibleKeys_getElem?_of_valid {key : List Word} {valid : List Bool} {j : Nat} (hj : valid[j]? = some true) :
    (visibleKeys key valid)[j]? = key[j]?.map some := by
  rw [visibleKeys, List.getElem?_zipWith, hj]
  cases key[j]? <;> rfl

/-- Writing an entry makes it visible and leaves the others as they were (20_memory.md R51). -/
theorem visibleKeys_set (key : List Word) (valid : List Bool) (j : Nat) (v : Word) :
    visibleKeys (key.set j v) (valid.set j true) = (visibleKeys key valid).set j (some v) := by
  induction key generalizing valid j with
  | nil => rfl
  | cons k ks ih =>
    cases valid with
    | nil => simp [visibleKeys]
    | cons b bs =>
      cases j with
      | zero => rfl
      | succ j => exact congrArg (_ :: ·) (ih bs j)

/-! ### Array seeding reads the first `len` entries only -/

theorem advanceKey_j_lt {len : Nat} (hlen : 1 ≤ len) (w : SeedWork) : (advanceKey len w).j < len := by
  unfold advanceKey
  split
  · exact hlen
  · next inRange => exact Nat.lt_of_not_le inRange

/-- Pass 1 leaves the key cursor below `len` (41_seeding.md R134). -/
theorem seedPass1_j_lt (c : Config) (key : List Word) {len : Nat} (hlen : 1 ≤ len) (w : SeedWork) :
    (seedPass1 c key len w).j < len := advanceKey_j_lt hlen _

/-- An iteration of pass 1 reads the one key entry at its cursor. -/
theorem seedPass1_congr (c : Config) {key key' : List Word} (len : Nat) {w : SeedWork} (h : key[w.j]? = key'[w.j]?) :
    seedPass1 c key len w = seedPass1 c key' len w := by
  have read : keyRead key w.j = keyRead key' w.j := by
    rw [keyRead, keyRead, List.getD_eq_getElem?_getD, h, ← List.getD_eq_getElem?_getD]
  rw [seedPass1, seedPass1, read]

theorem seedPass1_iterate_congr (c : Config) {key key' : List Word} {len : Nat} (hlen : 1 ≤ len)
    (h : ∀ j, j < len → key[j]? = key'[j]?) (n : Nat) {w : SeedWork} (hw : w.j < len) :
    (seedPass1 c key len)^[n] w = (seedPass1 c key' len)^[n] w := by
  induction n generalizing w with
  | zero => rfl
  | succ n ih =>
    rw [Function.iterate_succ_apply, Function.iterate_succ_apply, seedPass1_congr c len (h w.j hw)]
    exact ih (seedPass1_j_lt c key' hlen w)

/-- `seed_array(key, len)` depends on the first `len` key entries only (41_seeding.md R134, R141). -/
theorem seedArray_congr (c : Config) {key key' : List Word} {len : Nat} (hlen : 1 ≤ len)
    (h : ∀ j, j < len → key[j]? = key'[j]?) : seedArray c key len = seedArray c key' len := by
  have cursor_start : (seedStart c).j < len := hlen
  rw [seedArray, seedArray, seedPass1_iterate_congr c hlen h _ cursor_start]

/-! ### Agreement on all that is defined -/

/-- `State.sameDefined` with its parts named (10_state.md R37). -/
structure AgreeDefined (s t : State) : Prop where
  cfg : s.cfg = t.cfg
  responses : s.responses = t.responses
  seeded : s.seeded = t.seeded
  gen : s.seeded = true → s.gen = t.gen
  visible : visibleKeys s.key s.keyValid = visibleKeys t.key t.keyValid
  keyValid : s.keyValid = t.keyValid
  sequencer : s.sequencer = t.sequencer
  pending : s.pending = t.pending
  inputs : s.inputs = t.inputs

theorem sameDefined_iff_agreeDefined (s t : State) : s.sameDefined t ↔ AgreeDefined s t := by
  constructor
  · rintro ⟨cfg, observe, keyValid, sequencer, pending, inputs⟩
    obtain ⟨responses, seeded, gen, visible⟩ := Observation.mk.inj observe
    refine ⟨cfg, responses, seeded, fun hs => ?_, visible, keyValid, sequencer, pending, inputs⟩
    simpa [hs, ← seeded] using gen
  · intro h
    have observe : s.observe = t.observe := by
      simp only [State.observe, h.responses, h.visible, ← h.seeded]
      split
      · next hs => rw [h.gen hs]
      · rfl
    exact ⟨h.cfg, observe, h.keyValid, h.sequencer, h.pending, h.inputs⟩

namespace AgreeDefined

variable {s t : State}

/-- An entry whose valid bit is 1 is defined. -/
theorem key_getElem? (h : AgreeDefined s t) {j : Nat} (hj : s.keyValid[j]? = some true) : s.key[j]? = t.key[j]? := by
  have mapped := congrArg (·[j]?) h.visible
  simp only [visibleKeys_getElem?_of_valid hj, visibleKeys_getElem?_of_valid (h.keyValid ▸ hj)] at mapped
  exact Option.map_injective (Option.some_injective Word) mapped

theorem keyWritten_eq (h : AgreeDefined s t) (len : Nat) : keyWritten s len = keyWritten t len := by
  rw [keyWritten, keyWritten, h.keyValid]

/-- SEED_ARRAY reads only entries whose valid bits it has checked, so it makes one state of both (60_exceptions.md R216). -/
theorem seedArray_eq (h : AgreeDefined s t) {len : Nat} (hlen : 1 ≤ len) (hkey : keyWritten s len = true) :
    seedArray t.cfg s.key len = seedArray t.cfg t.key len :=
  seedArray_congr t.cfg hlen fun j hj => h.key_getElem? ((keyWritten_iff s len).1 hkey j hj)

/-! Every update keeps the agreement: what it writes is the same on both sides. -/

theorem loadGen (h : AgreeDefined s t) (g : GenState) : AgreeDefined (s.loadGen g) (t.loadGen g) :=
  { h with gen := fun _ => rfl }

theorem seed (h : AgreeDefined s t) (g : GenState) : AgreeDefined (s.seed g) (t.seed g) :=
  { h with gen := fun _ => rfl, seeded := rfl }

theorem setSequencer (h : AgreeDefined s t) (q : Sequencer) : AgreeDefined (s.setSequencer q) (t.setSequencer q) :=
  { h with sequencer := rfl }

theorem keyWrite (h : AgreeDefined s t) (j : Nat) (v : Word) : AgreeDefined (s.keyWrite j v) (t.keyWrite j v) :=
  { h with
    visible := by
      simp only [State.keyWrite_key, State.keyWrite_keyValid, visibleKeys_set, h.visible]
    keyValid := congrArg (·.set j true) h.keyValid }

theorem respond (h : AgreeDefined s t) (status : BitVec 8) (rd : Word) :
    AgreeDefined (s.respond status rd) (t.respond status rd) :=
  { h with responses := by rw [State.respond_responses, State.respond_responses, h.responses], pending := rfl }

theorem succeed (h : AgreeDefined s t) (rd : Word) : AgreeDefined (s.succeed rd) (t.succeed rd) := h.respond okStatus rd

theorem raise (h : AgreeDefined s t) (e : ErrorCode) : AgreeDefined (s.raise e) (t.raise e) := h.respond e.status 0

theorem setInputs (h : AgreeDefined s t) (rest : List HostEvent) : AgreeDefined (s.setInputs rest) (t.setInputs rest) :=
  { h with inputs := rfl }

theorem accept (h : AgreeDefined s t) (r : Request) (rest : List HostEvent) :
    AgreeDefined (s.accept r rest) (t.accept r rest) :=
  { h with pending := rfl, inputs := rfl }

theorem hostReset (h : AgreeDefined s t) (rest : List HostEvent) : AgreeDefined (s.hostReset rest) (t.hostReset rest) := by
  have eq : s.hostReset rest = t.hostReset rest := by
    rw [State.hostReset, State.hostReset, h.cfg, h.responses]
  rw [eq]
  exact ⟨rfl, rfl, rfl, fun _ => rfl, rfl, rfl, rfl, rfl, rfl⟩

end AgreeDefined

/-! ### States that agree are answered alike -/

/-- Two transitions end alike: in next states that agree on all that is defined, or in the same refusal. -/
inductive AnsweredAlike : Host.Outcome State Fault Refusal → Host.Outcome State Fault Refusal → Prop where
  | next {s t : State} (h : AgreeDefined s t) : AnsweredAlike (.next s) (.next t)
  | refused (x : Refusal) : AnsweredAlike (.refused x) (.refused x)

/-- A guard that both sides take alike. -/
theorem AnsweredAlike.ite {b b' : Bool} {o₁ o₂ o₁' o₂' : Host.Outcome State Fault Refusal} (hb : b = b')
    (hpass : b = true → AnsweredAlike o₁ o₁') (hfail : AnsweredAlike o₂ o₂') :
    AnsweredAlike (if b then o₁ else o₂) (if b' then o₁' else o₂') := by
  subst hb
  split
  · next passed => exact hpass passed
  · exact hfail

/-- No command can tell two states that agree on all that is defined from each other. -/
theorem exec_answeredAlike (i : Instr) {s t : State} (h : AgreeDefined s t) : AnsweredAlike (exec i s) (exec i t) := by
  have hcfg := h.cfg
  cases i with
  | seedScalar d =>
    simp only [exec, execSeedScalar, hcfg]
    exact .next ((h.seed _).succeed 0)
  | keyWrite j d =>
    simp only [exec, execKeyWrite, hcfg]
    exact .ite rfl (fun _ => .next ((h.keyWrite j d).succeed 0)) (.next (h.raise _))
  | seedArray len =>
    simp only [exec, execSeedArray, runSeedArray_eq, hcfg]
    refine .ite rfl (fun legal => .ite (h.keyWritten_eq len) (fun written => ?_) (.next (h.raise _))) (.next (h.raise _))
    obtain ⟨hlen, -⟩ := (keyLengthLegal_iff t.cfg len).1 legal
    rw [h.seedArray_eq hlen written]
    exact .next (((h.seed _).setSequencer .idle).succeed 0)
  | next =>
    simp only [exec, execNext, recurrenceStep, hcfg]
    refine .ite h.seeded (fun seeded => ?_) (.next (h.raise _))
    rw [h.gen seeded]
    exact .next ((h.loadGen _).succeed _)
  | jump =>
    simp only [exec, execJump, runJump_eq, hcfg]
    cases t.cfg.jumpPoly with
    | none => exact .next (h.raise _)
    | some digits =>
      refine .ite h.seeded (fun seeded => ?_) (.next (h.raise _))
      rw [h.gen seeded]
      exact .next (((h.loadGen _).setSequencer .idle).succeed 0)
  | readWord k =>
    simp only [exec, execReadWord, hcfg]
    refine .ite rfl (fun _ => .ite h.seeded (fun seeded => ?_) (.next (h.raise _))) (.next (h.raise _))
    rw [h.gen seeded]
    exact .next (h.succeed _)
  | readLung =>
    simp only [exec, execReadLung]
    refine .ite h.seeded (fun seeded => ?_) (.next (h.raise _))
    rw [h.gen seeded]
    exact .next (h.succeed _)
  | readIndex =>
    simp only [exec, execReadIndex]
    refine .ite h.seeded (fun seeded => ?_) (.next (h.raise _))
    rw [h.gen seeded]
    exact .next (h.succeed _)
  | readInfo =>
    simp only [exec, execReadInfo, hcfg, h.seeded]
    exact .next (h.succeed _)

theorem runRequest_answeredAlike (r : Request) {s t : State} (h : AgreeDefined s t) :
    AnsweredAlike (runRequest r s) (runRequest r t) := by
  unfold runRequest
  cases decode r with
  | ok i => exact exec_answeredAlike i h
  | error e => exact .next (h.raise .illegalCommand)

/-- The host's next event and the request in progress are defined, so both states see the same (30_encoding.md R82). -/
theorem step_answeredAlike {s t : State} (hs : s.Inv) (ht : t.Inv) (h : AgreeDefined s t) :
    AnsweredAlike (step s) (step t) := by
  simp only [step, turn_of_inv hs, turn_of_inv ht, hostTurn, h.pending, h.inputs]
  rcases t.pending with _ | r
  · rcases t.inputs with _ | ⟨r | _ | _, rest⟩
    · exact .next h
    · exact .next (h.accept r rest)
    · exact .next (h.setInputs rest)
    · exact .next (h.hostReset rest)
  · rcases t.inputs with _ | ⟨q | _ | _, rest⟩
    · exact runRequest_answeredAlike r h
    · exact .refused .handshakeBroken
    · exact runRequest_answeredAlike r (h.setInputs rest)
    · exact .next (h.hostReset rest)

/-- Settles O19: agreement on all that is defined is a bisimulation. -/
theorem unspecifiedContentsAreUnobservable : Obligations.UnspecifiedContentsAreUnobservable := by
  unfold Obligations.UnspecifiedContentsAreUnobservable
  intro s t hs ht same
  have alike := step_answeredAlike hs ht ((sameDefined_iff_agreeDefined s t).1 same)
  generalize step s = o, step t = o' at alike
  cases alike with
  | next h => exact .inl ⟨_, _, rfl, rfl, (sameDefined_iff_agreeDefined _ _).2 h⟩
  | refused x => exact .inr ⟨x, rfl, rfl⟩

end Sys2Proof.Machine

/-! Equal logical views give equal outputs (O36). A step reads `S` through the logical view and takes from `X_0` only what
`combined` takes; after it, `X_0` is gone, so two states that agree for one step have equal logical views from then on. -/

namespace Sys2Proof.Machine

/-! ### A step in logical words -/

/-- `combined` takes its high bits from `X_0` and its low bits from `X_1` (40_recurrence.md R101). -/
theorem combine_of_indexHigh {c : Config} {g : GenState} (hg : g.WellFormed c) (hsplit : c.splitSource = .indexHigh) :
    combine c g = (logicalWord c g 0 &&& upperMask c.P) ||| (logicalWord c g 1 &&& lowerMask c.P) := by
  simp only [combine, hsplit, logicalWord, slotAt_zero hg.2]

/-- `combined` takes its high bits from `X_1` and its low bits from `X_0` (40_recurrence.md R101). -/
theorem combine_of_nextHigh {c : Config} {g : GenState} (hg : g.WellFormed c) (hsplit : c.splitSource = .nextHigh) :
    combine c g = (logicalWord c g 1 &&& upperMask c.P) ||| (logicalWord c g 0 &&& lowerMask c.P) := by
  simp only [combine, hsplit, logicalWord, slotAt_zero hg.2]

/-- A step moves each logical word one place down (40_recurrence.md R106; 10_state.md R36). -/
theorem logicalWord_stepState_of_lt {c : Config} {g : GenState} {j : Nat} (hc : c.WellFormed) (hg : g.WellFormed c)
    (hj : j + 1 < c.N) : logicalWord c (stepState c g) j = logicalWord c g (j + 1) := by
  have slot_eq : slotAt c (stepState c g) j = slotAt c g (j + 1) := by
    rw [slotAt, stepState_index_toNat hc, Nat.mod_add_mod, slotAt, Nat.add_assoc, Nat.add_comm 1 j]
  rw [logicalWord, slot_eq, readSlot_stepState_ne (slotAt_ne_index hg.2 (by omega) hj), logicalWord]

/-- The word a step writes is the last logical word after it. -/
theorem logicalWord_stepState_last {c : Config} {g : GenState} (hc : c.WellFormed) (hg : g.WellFormed c) :
    logicalWord c (stepState c g) (c.N - 1) = newSlot c g := by
  have slot_eq : slotAt c (stepState c g) (c.N - 1) = g.index.toNat := by
    rw [slotAt, stepState_index_toNat hc, Nat.mod_add_mod, show g.index.toNat + 1 + (c.N - 1) = g.index.toNat + c.N by omega,
      Nat.add_mod_right, Nat.mod_eq_of_lt hg.2]
  rw [logicalWord, slot_eq, readSlot_stepState_self hg]

theorem logicalView_eq_iff {c : Config} {a b : GenState} : logicalView c a = logicalView c b ↔
    (∀ j, j < c.N → logicalWord c a j = logicalWord c b j) ∧ a.lung = b.lung := by
  simp only [logicalView, Prod.mk.injEq, List.map_inj_left, List.mem_range]

/-! ### Agreement for one step -/

/-- Two states agree on all that a step reads: on `combined`, on the logical words from `X_1` on, and on `lung`
(10_state.md R36). -/
structure AgreeForStep (c : Config) (a b : GenState) : Prop where
  combined : combine c a = combine c b
  later : ∀ j, 1 ≤ j → j < c.N → logicalWord c a j = logicalWord c b j
  lung : a.lung = b.lung

section
variable {c : Config} {a b : GenState}

theorem AgreeForStep.of_logicalView_eq (hc : c.WellFormed) (ha : a.WellFormed c) (hb : b.WellFormed c)
    (h : logicalView c a = logicalView c b) : AgreeForStep c a b := by
  obtain ⟨words, lung⟩ := logicalView_eq_iff.1 h
  refine ⟨?_, fun j _ hj => words j hj, lung⟩
  cases hsplit : c.splitSource with
  | indexHigh =>
    rw [combine_of_indexHigh ha hsplit, combine_of_indexHigh hb hsplit, words 0 (by omega), words 1 (by omega)]
  | nextHigh =>
    rw [combine_of_nextHigh ha hsplit, combine_of_nextHigh hb hsplit, words 0 (by omega), words 1 (by omega)]

/-- The low `64-P` bits of `X_0` are dead where the high bits come from `words[index]` (10_state.md R36). -/
theorem AgreeForStep.of_sameLive (hc : c.WellFormed) (ha : a.WellFormed c) (hb : b.WellFormed c)
    (hsplit : c.splitSource = .indexHigh) (h : sameLive c a b) : AgreeForStep c a b := by
  obtain ⟨high, later, lung⟩ := h
  refine ⟨?_, later, lung⟩
  rw [combine_of_indexHigh ha hsplit, combine_of_indexHigh hb hsplit, high, later 1 le_rfl (by omega)]

theorem AgreeForStep.newLung_eq (hc : c.WellFormed) (h : AgreeForStep c a b) : newLung c a = newLung c b := by
  have mid : readSlot a (slotAt c a c.M) = readSlot b (slotAt c b c.M) := h.later c.M (by omega) (by omega)
  rw [newLung, newLung, h.combined, h.lung, mid]

theorem AgreeForStep.newSlot_eq (hc : c.WellFormed) (h : AgreeForStep c a b) : newSlot c a = newSlot c b := by
  rw [newSlot, newSlot, h.combined, h.newLung_eq hc]

theorem AgreeForStep.stepOutput_eq (hc : c.WellFormed) (ha : a.WellFormed c) (hb : b.WellFormed c)
    (h : AgreeForStep c a b) : stepOutput c a = stepOutput c b := by
  have tempering : readSlot a (slotAt c a c.L) = readSlot b (slotAt c b c.L) := h.later c.L (by omega) (by omega)
  rw [Machine.stepOutput_eq hc ha, Machine.stepOutput_eq hc hb, h.newSlot_eq hc, tempering]

/-- A step overwrites `X_0`, so the states it leaves have equal logical views. -/
theorem AgreeForStep.logicalView_stepState_eq (hc : c.WellFormed) (ha : a.WellFormed c) (hb : b.WellFormed c)
    (h : AgreeForStep c a b) : logicalView c (stepState c a) = logicalView c (stepState c b) := by
  refine logicalView_eq_iff.2 ⟨fun j hj => ?_, h.newLung_eq hc⟩
  by_cases last : j = c.N - 1
  · rw [last, logicalWord_stepState_last hc ha, logicalWord_stepState_last hc hb, h.newSlot_eq hc]
  · have hlt : j + 1 < c.N := by omega
    rw [logicalWord_stepState_of_lt hc ha hlt, logicalWord_stepState_of_lt hc hb hlt, h.later (j + 1) (by omega) hlt]

theorem AgreeForStep.outputs_eq (hc : c.WellFormed) (ha : a.WellFormed c) (hb : b.WellFormed c)
    (h : AgreeForStep c a b) (n : Nat) : outputs c n a = outputs c n b := by
  induction n generalizing a b with
  | zero => rfl
  | succ n ih =>
    have ha' := stepState_wellFormed hc ha
    have hb' := stepState_wellFormed hc hb
    have agree : AgreeForStep c (stepState c a) (stepState c b) :=
      .of_logicalView_eq hc ha' hb' (h.logicalView_stepState_eq hc ha hb)
    rw [outputs, outputs, h.stepOutput_eq hc ha hb, ih ha' hb' agree]

end

/-- Settles O36: either hypothesis gives agreement for one step, and that gives equal outputs. -/
theorem logicalViewFixesOutputs : Obligations.LogicalViewFixesOutputs := by
  unfold Obligations.LogicalViewFixesOutputs
  rintro c a b hc ha hb (view | ⟨hsplit, live⟩) n
  · exact (AgreeForStep.of_logicalView_eq hc ha hb view).outputs_eq hc ha hb n
  · exact (AgreeForStep.of_sameLive hc ha hb hsplit live).outputs_eq hc ha hb n

end Sys2Proof.Machine

/-! The statements of 20_memory.md: only KEY_WRITE changes the key RAM (O29), the READ commands change nothing (O32), and the
digits of the jump polynomial ROM with their bits (O49). The statement on runs (O21) follows in a part of its own. -/

namespace Sys2Proof.Machine

/-! ### The key RAM under a command -/

/-- A command leaves the key RAM, or it is KEY_WRITE and sets one entry and its valid bit (20_memory.md R51, R67). -/
theorem exec_keyRam {i : Instr} {s t : State} (h : exec i s = .next t) :
    (t.key = s.key ∧ t.keyValid = s.keyValid) ∨
    ∃ j d, i = .keyWrite j d ∧ t.key = s.key.set j d ∧ t.keyValid = s.keyValid.set j true := by
  obtain ⟨e, rfl⟩ | ⟨d, -, rfl⟩ | ⟨j, d, rfl, -, rfl⟩ | ⟨len, -, -, -, rfl⟩ | ⟨-, -, rfl⟩ | ⟨digits, -, -, -, rfl⟩ |
    ⟨rd, -, -, rfl⟩ := exec_cases h
  case inr.inr.inl => exact .inr ⟨j, d, rfl, rfl, rfl⟩
  all_goals exact .inl ⟨rfl, rfl⟩

/-- Setting a bit clears none. -/
theorem getElem?_set_true_of_true {valid : List Bool} {k : Nat} (h : valid[k]? = some true) (j : Nat) :
    (valid.set j true)[k]? = some true := by
  by_cases hj : j = k
  · subst hj
    exact List.getElem?_set_self (List.getElem?_eq_some_iff.1 h).1
  · rw [List.getElem?_set_ne hj, h]

/-- Settles O29: a command leaves the key RAM or writes one entry of it. -/
theorem keyRamPersists : Obligations.KeyRamPersists := by
  unfold Obligations.KeyRamPersists
  intro i s t h
  obtain ⟨key, valid⟩ | ⟨j, d, rfl, key, valid⟩ := exec_keyRam h
  · rw [key, valid]
    exact ⟨fun _ => ⟨rfl, rfl⟩, fun _ _ _ _ _ => ⟨rfl, rfl⟩, fun _ set => set⟩
  · rw [key, valid]
    refine ⟨fun notWrite => absurd rfl (notWrite j d), ?_, fun k set => getElem?_set_true_of_true set j⟩
    rintro _ _ ⟨⟩ k hk
    exact ⟨List.getElem?_set_ne hk.symm, List.getElem?_set_ne hk.symm⟩

/-! ### The READ commands -/

/-- The inspection commands (43_inspect.md R190 to R193). -/
abbrev IsRead (i : Instr) : Prop := (∃ k, i = .readWord k) ∨ i = .readLung ∨ i = .readIndex ∨ i = .readInfo

/-- A READ command does nothing but respond (20_memory.md R59). -/
theorem exec_read_responds {i : Instr} {s t : State} (read : IsRead i) (h : exec i s = .next t) :
    ∃ status rd, t = s.respond status rd := by
  obtain ⟨e, rfl⟩ | ⟨d, rfl, -⟩ | ⟨j, d, rfl, -⟩ | ⟨len, rfl, -⟩ | ⟨rfl, -⟩ | ⟨digits, rfl, -⟩ | ⟨rd, -, -, rfl⟩ :=
    exec_cases h
  case inl => exact ⟨e.status, 0, rfl⟩
  case inr.inr.inr.inr.inr.inr => exact ⟨okStatus, rd, rfl⟩
  all_goals simp [IsRead] at read

/-- KEY_WRITE fails, or it writes its entry and responds (41_seeding.md R132). -/
theorem exec_keyWrite_cases {j : Nat} {d : Word} {s t : State} (h : exec (.keyWrite j d) s = .next t) :
    t = s.raise .invalidArgument ∨ t = (s.keyWrite j d).succeed 0 := by
  simp only [exec, execKeyWrite] at h
  split at h
  · cases h; exact .inr rfl
  · cases h; exact .inl rfl

/-- Settles O32, by what KEY_WRITE and a READ command can do. -/
theorem readsChangeNothing : Obligations.ReadsChangeNothing := by
  unfold Obligations.ReadsChangeNothing
  intro s t
  refine ⟨fun j d h => ?_, fun i read h => ?_⟩
  · obtain rfl | rfl := exec_keyWrite_cases h
    · exact ⟨rfl, rfl, rfl⟩
    · exact ⟨rfl, rfl, rfl⟩
  · obtain ⟨status, rd, rfl⟩ := exec_read_responds read h
    rfl

/-! ### The digits and bits of the jump polynomial ROM -/

theorem hexValue_of_decimal {ch : Char} (h0 : 48 ≤ ch.toNat) (h9 : ch.toNat ≤ 57) :
    hexValue ch = some (ch.toNat - 48) := if_pos ⟨h0, h9⟩

theorem hexValue_of_lower {ch : Char} (ha : 97 ≤ ch.toNat) (hf : ch.toNat ≤ 102) :
    hexValue ch = some (ch.toNat - 87) := by
  rw [hexValue, if_neg (by omega), if_pos ⟨ha, hf⟩]

theorem hexValue_of_upper {ch : Char} (hA : 65 ≤ ch.toNat) (hF : ch.toNat ≤ 70) :
    hexValue ch = some (ch.toNat - 55) := by
  rw [hexValue, if_neg (by omega), if_neg (by omega), if_pos ⟨hA, hF⟩]

theorem hexValue_lt {ch : Char} {n : Nat} (h : hexValue ch = some n) : n < 16 := by
  have digit : (hexValue ch).isSome = true := by rw [h]; rfl
  obtain ⟨h0, h9⟩ | ⟨ha, hf⟩ | ⟨hA, hF⟩ := (hexValue_isSome_iff ch).1 digit
  · rw [hexValue_of_decimal h0 h9, Option.some_inj] at h; omega
  · rw [hexValue_of_lower ha hf, Option.some_inj] at h; omega
  · rw [hexValue_of_upper hA hF, Option.some_inj] at h; omega

theorem polyDigit_of_getElem? {digits : List Char} {d n : Nat} {ch : Char} (hd : digits[d]? = some ch)
    (hch : hexValue ch = some n) : polyDigit digits d = n := by
  rw [polyDigit, List.getD_eq_getElem?_getD, hd, Option.getD_some, hch, Option.getD_some]

/-- A digit has four bits, also where it is read outside the literal or is no hex digit. -/
theorem polyDigit_lt (digits : List Char) (d : Nat) : polyDigit digits d < 16 := by
  rw [polyDigit]
  cases h : hexValue (digits.getD d '0') with
  | none => exact Nat.zero_lt_succ 15
  | some n => exact hexValue_lt h

/-- The bits of digit `d` are the four from `4·d` on, most significant first (20_memory.md R54). -/
theorem polyBit_four_mul_add (digits : List Char) (d : Nat) {m : Nat} (hm : m < 4) :
    polyBit digits (4 * d + m) = (polyDigit digits d).testBit (3 - m) := by
  rw [polyBit, Nat.mul_add_div (by omega), Nat.div_eq_of_lt hm, Nat.add_zero, Nat.mul_add_mod, Nat.mod_eq_of_lt hm]

/-- A four-bit number is the weighted sum of its bits. -/
theorem eq_sum_testBit_of_lt_sixteen : ∀ n < 16, n = (if n.testBit 3 then 8 else 0) + (if n.testBit 2 then 4 else 0) +
    (if n.testBit 1 then 2 else 0) + (if n.testBit 0 then 1 else 0) := by decide

/-- Settles O49: a digit's value by the range its character is in, its bits by `polyBit_four_mul_add`. -/
theorem polyBitsReadDigits : Obligations.PolyBitsReadDigits := by
  unfold Obligations.PolyBitsReadDigits
  intro digits d
  refine ⟨fun ch hd => ⟨?_, ?_, ?_⟩, ?_⟩
  · exact fun h0 h9 => polyDigit_of_getElem? hd (hexValue_of_decimal h0 h9)
  · exact fun ha hf => polyDigit_of_getElem? hd (hexValue_of_lower ha hf)
  · exact fun hA hF => polyDigit_of_getElem? hd (hexValue_of_upper hA hF)
  · have first : polyBit digits (4 * d) = (polyDigit digits d).testBit 3 :=
      polyBit_four_mul_add digits d (m := 0) (by norm_num)
    rw [first, polyBit_four_mul_add digits d (by norm_num), polyBit_four_mul_add digits d (by norm_num),
      polyBit_four_mul_add digits d (by norm_num)]
    exact eq_sum_testBit_of_lt_sixteen _ (polyDigit_lt digits d)

end Sys2Proof.Machine

/-! A run of requests under the handshake is the left-to-right composition of their transitions (O21): a request's two
transitions, accepting and running it, come to running it in the state before; the rest is an induction over the requests. -/

namespace Sys2Proof.Machine

open Sys2Proof.Safety

/-! ### What answering a request does -/

/-- A command ends in one response and leaves the host's events (30_encoding.md R70). -/
theorem exec_responds {i : Instr} {s t : State} (h : exec i s = .next t) :
    t.pending = none ∧ t.inputs = s.inputs ∧ ∃ resp, t.responses = s.responses ++ [resp] := by
  obtain ⟨e, rfl⟩ | ⟨d, -, rfl⟩ | ⟨j, d, -, -, rfl⟩ | ⟨len, -, -, -, rfl⟩ | ⟨-, -, rfl⟩ | ⟨digits, -, -, -, rfl⟩ |
    ⟨rd, -, -, rfl⟩ := exec_cases h
  all_goals exact ⟨rfl, rfl, _, rfl⟩

/-- A request spells a command, which runs, or none, and is answered as illegal (30_encoding.md R78). -/
theorem runRequest_cases {r : Request} {s t : State} (h : runRequest r s = .next t) :
    (∃ i, decode r = .ok i ∧ exec i s = .next t) ∨ ∃ e, decode r = .error e ∧ t = s.raise .illegalCommand := by
  rw [runRequest] at h
  cases hr : decode r with
  | ok i => rw [hr] at h; exact .inl ⟨i, rfl, h⟩
  | error e => rw [hr] at h; cases h; exact .inr ⟨e, rfl, rfl⟩

theorem runRequest_of_decode_error {r : Request} {e : DecodeError} (h : decode r = .error e) (s : State) :
    runRequest r s = .next (s.raise .illegalCommand) := by
  rw [runRequest, h]; rfl

/-- Every request is answered in every state (70_reset_and_hazards.md R255). -/
theorem runRequest_next (r : Request) (s : State) : ∃ t, runRequest r s = .next t := by
  cases hr : decode r with
  | ok i => rw [runRequest_of_decode hr]; exact exec_next i s
  | error e => exact ⟨_, runRequest_of_decode_error hr s⟩

theorem runRequest_keeps_inv {r : Request} {s t : State} (hs : s.Inv) (h : runRequest r s = .next t) : t.Inv := by
  obtain ⟨i, -, hexec⟩ | ⟨e, -, rfl⟩ := runRequest_cases h
  · exact exec_keeps_inv hs hexec
  · exact hs.raise .illegalCommand

theorem runRequest_responds {r : Request} {s t : State} (h : runRequest r s = .next t) :
    t.pending = none ∧ t.inputs = s.inputs ∧ ∃ resp, t.responses = s.responses ++ [resp] := by
  obtain ⟨i, -, hexec⟩ | ⟨e, -, rfl⟩ := runRequest_cases h
  · exact exec_responds hexec
  · exact ⟨rfl, rfl, _, rfl⟩

/-- Answering a request looks at neither the request in progress nor the host's events. -/
theorem runRequest_accept {r : Request} {s t : State} (h : runRequest r s = .next t) (q : Request)
    (rest : List HostEvent) : runRequest r (s.accept q rest) = .next (t.setInputs rest) := by
  obtain ⟨i, hr, hexec⟩ | ⟨e, hr, rfl⟩ := runRequest_cases h
  · rw [runRequest_of_decode hr]
    exact exec_hostSide (some q) rest hexec
  · exact runRequest_of_decode_error hr _

/-! ### The composition of the requests' transitions -/

theorem composition_cons {r : Request} {s t : State} (h : runRequest r s = .next t) (rs : List Request) :
    composition (r :: rs) s = composition rs t := by
  rw [composition, h]

/-- Response `k` of `new` is the one that request `k` is answered with in the state the requests before it leave. -/
def AnsweredInOrder (rs : List Request) (s : State) (new : List Response) : Prop :=
  ∀ (k : Nat) (r : Request), rs[k]? = some r →
    ∃ u resp, composition (rs.take k) s = .next u ∧ answeredWith u r resp ∧ new[k]? = some resp

theorem AnsweredInOrder.cons {r : Request} {rs : List Request} {s t : State} {resp : Response} {new : List Response}
    (hrun : runRequest r s = .next t) (hresp : t.responses = s.responses ++ [resp]) (h : AnsweredInOrder rs t new) :
    AnsweredInOrder (r :: rs) s (resp :: new) := by
  intro k q hq
  cases k with
  | zero =>
    obtain rfl : r = q := Option.some_inj.1 hq
    exact ⟨s, resp, rfl, ⟨t, hrun, hresp⟩, rfl⟩
  | succ k =>
    obtain ⟨u, resp', hu, answered, hnew⟩ := h k q hq
    exact ⟨u, resp', (composition_cons hrun _).trans hu, answered, hnew⟩

/-- The requests of a sequence are all answered, one response each (20_memory.md R62). -/
theorem composition_answers (rs : List Request) {s : State} (hs : s.Inv) (idle : s.pending = none) :
    ∃ t new, composition rs s = .next t ∧ t.Inv ∧ t.pending = none ∧ t.inputs = s.inputs ∧
      t.responses = s.responses ++ new ∧ new.length = rs.length ∧ AnsweredInOrder rs s new := by
  induction rs generalizing s with
  | nil => exact ⟨s, [], rfl, hs, idle, rfl, (List.append_nil _).symm, rfl, fun k r hr => by simp at hr⟩
  | cons r rs ih =>
    obtain ⟨u, hrun⟩ := runRequest_next r s
    obtain ⟨uIdle, uInputs, resp, uResponses⟩ := runRequest_responds hrun
    obtain ⟨t, new, hcomp, ht, tIdle, tInputs, tResponses, hlength, hordered⟩ := ih (runRequest_keeps_inv hs hrun) uIdle
    refine ⟨t, resp :: new, (composition_cons hrun rs).trans hcomp, ht, tIdle, tInputs.trans uInputs, ?_,
      congrArg (· + 1) hlength, hordered.cons hrun uResponses⟩
    rw [tResponses, uResponses, List.append_assoc, List.singleton_append]

/-! ### The transitions of a run -/

theorem core_run_succ {M : Host.Core} {s t : M.State} (h : M.step s = .next t) (n : Nat) : M.run (n + 1) s = M.run n t := by
  rw [Host.Core.run, h]

/-- An idle block accepts the host's request (30_encoding.md R82). -/
theorem step_accept {s : State} {r : Request} {rest : List HostEvent} (hs : s.Inv) (idle : s.pending = none)
    (hinputs : s.inputs = .request r :: rest) : step s = .next (s.accept r rest) := by
  rw [step, turn_of_inv hs, hostTurn, idle, hinputs]

/-- While the host waits, the request it has issued is answered (30_encoding.md R82). -/
theorem step_accepted {s : State} (hs : s.Inv) (r : Request) (rest : List HostEvent) :
    step (s.accept r (.wait :: rest)) = runRequest r (s.accept r rest) := by
  rw [step, turn_of_inv (hs.accept r (.wait :: rest))]
  rfl

/-- The two transitions of a request and its wait leave what the request leaves where the host does nothing more. -/
theorem core_run_request {s t : State} {r : Request} {rest : List HostEvent} (hs : s.Inv) (idle : s.pending = none)
    (hinputs : s.inputs = .request r :: .wait :: rest) (hrun : runRequest r (s.setInputs []) = .next t) (n : Nat) :
    core.run (n + 2) s = core.run n (t.setInputs rest) := by
  have answered : step (s.accept r (.wait :: rest)) = .next (t.setInputs rest) :=
    (step_accepted hs r rest).trans (runRequest_accept hrun r rest)
  exact (core_run_succ (M := core) (step_accept hs idle hinputs) (n + 1)).trans (core_run_succ (M := core) answered n)

/-- A run of requests is the composition of their transitions (20_memory.md R62). -/
theorem core_run_hostProgram (rs : List Request) {s : State} (hs : s.Inv) (idle : s.pending = none)
    (hinputs : s.inputs = hostProgram rs) : core.run (2 * rs.length) s = composition rs (s.setInputs []) := by
  induction rs generalizing s with
  | nil => exact congrArg Host.Outcome.next (State.eq_of_fields rfl rfl rfl rfl rfl rfl rfl hinputs rfl)
  | cons r rs ih =>
    obtain ⟨t, hrun⟩ := runRequest_next r (s.setInputs [])
    obtain ⟨tIdle, tInputs, -⟩ := runRequest_responds hrun
    have ht : t.Inv := runRequest_keeps_inv (hs.setInputs []) hrun
    have nothing_left : (t.setInputs (hostProgram rs)).setInputs [] = t :=
      State.eq_of_fields rfl rfl rfl rfl rfl rfl rfl tInputs.symm rfl
    have first : core.run (2 * rs.length + 2) s = core.run (2 * rs.length) (t.setInputs (hostProgram rs)) :=
      core_run_request hs idle hinputs hrun _
    have later : core.run (2 * rs.length) (t.setInputs (hostProgram rs)) = composition rs t :=
      (ih (ht.setInputs (hostProgram rs)) tIdle rfl).trans (congrArg (composition rs) nothing_left)
    exact (first.trans later).trans (composition_cons hrun rs).symm

theorem observeRun_of_run {n : Nat} {s t : State} (h : core.run n s = .next t) : observeRun n s = some t.observe := by
  rw [observeRun, h]

/-- Settles O21: the run is the composition, and the composition answers every request. -/
theorem runsAnswerEveryRequest : Obligations.RunsAnswerEveryRequest := by
  unfold Obligations.RunsAnswerEveryRequest
  intro rs s hs idle hinputs
  obtain ⟨t, new, hcomp, ht, tIdle, tInputs, tResponses, hlength, hordered⟩ :=
    composition_answers rs (hs.setInputs []) idle
  have hrun := (core_run_hostProgram rs hs idle hinputs).trans hcomp
  exact ⟨t, new, hrun, hcomp, ht, tIdle, tInputs, tResponses, hlength, hordered, observeRun_of_run hrun⟩

end Sys2Proof.Machine

/-! The statements of 30_encoding.md. First the fields of a command word under the masks of the opcode map, then what the decoder
answers (O1, O2, O3, O4). -/

namespace Sys2Proof

open Sys2Proof.Safety

/-! ### The fields of a command word under the masks -/

theorem eq_c24_zero_iff (w : BitVec 32) (op : BitVec 8) :
    w = c24 op 0 ↔ (opField w).toNat = op.toNat ∧ immValue w = 0 := by
  rw [← BitVec.toNat_inj, c24_toNat, opField_toNat, immValue, immField_toNat]
  omega

/-- A row whose command takes no immediate fixes both fields (30_encoding.md R75, R77). -/
theorem and_fullMask_eq_iff (w : BitVec 32) (op : BitVec 8) :
    w &&& 0xFFFFFFFF = c24 op 0 ↔ (opField w).toNat = op.toNat ∧ immValue w = 0 := by
  rw [and_fullMask, eq_c24_zero_iff]

/-- A row whose command takes an immediate fixes the opcode only (30_encoding.md R75). -/
theorem and_opMask_eq_iff (w : BitVec 32) (op : BitVec 8) :
    w &&& 0xFF000000 = c24 op 0 ↔ (opField w).toNat = op.toNat := by
  rw [← BitVec.toNat_inj, and_opMask_toNat, c24_toNat, opField_toNat]
  omega

theorem and_immMask_eq_immValue (w : BitVec 32) : (w &&& 0x00FFFFFF).toNat = immValue w := by
  rw [and_immMask_toNat, immValue, immField_toNat]

theorem shiftRight_toNat_eq_opField (w : BitVec 32) : (w >>> 24).toNat = (opField w).toNat := by
  rw [BitVec.toNat_ushiftRight, Nat.shiftRight_eq_div_pow, opField_toNat]

/-- The illegal command words by their fields (60_exceptions.md R212). -/
theorem illegalWord_iff (w : BitVec 32) : illegalWord w ↔
    ((opField w).toNat = 0 ∨ 10 ≤ (opField w).toNat) ∨ ((opField w).toNat ∈ [1, 4, 5, 7, 8, 9] ∧ immValue w ≠ 0) := by
  simp only [illegalWord, ne_eq, ← BitVec.toNat_inj, BitVec.le_def, shiftRight_toNat_eq_opField, and_immMask_eq_immValue,
    List.mem_cons, List.not_mem_nil, or_false]
  rfl

/-! ### What the decoder answers -/

/-- The fields a request needs to spell a command, and the operands it gives it (30_encoding.md R72, R73, R75, R77). -/
def Request.Spells (r : Request) : Instr → Prop
  | .seedScalar d => ((opField r.cmd).toNat = 0x01 ∧ immValue r.cmd = 0) ∧ d = r.data
  | .keyWrite j d => (opField r.cmd).toNat = 0x02 ∧ j = immValue r.cmd ∧ d = r.data
  | .seedArray len => (opField r.cmd).toNat = 0x03 ∧ len = immValue r.cmd
  | .next => (opField r.cmd).toNat = 0x04 ∧ immValue r.cmd = 0
  | .jump => (opField r.cmd).toNat = 0x05 ∧ immValue r.cmd = 0
  | .readWord i => (opField r.cmd).toNat = 0x06 ∧ i = immValue r.cmd
  | .readLung => (opField r.cmd).toNat = 0x07 ∧ immValue r.cmd = 0
  | .readIndex => (opField r.cmd).toNat = 0x08 ∧ immValue r.cmd = 0
  | .readInfo => (opField r.cmd).toNat = 0x09 ∧ immValue r.cmd = 0

theorem immField_eq_zero_iff (w : BitVec 32) : immField w = 0 ↔ immValue w = 0 := BitVec.toNat_inj.symm

theorem withoutImmediate_of_zero {w : BitVec 32} (h : immValue w = 0) (i : Instr) : withoutImmediate w i = .ok i :=
  if_pos ((immField_eq_zero_iff w).2 h)

theorem withoutImmediate_of_ne_zero {w : BitVec 32} (h : immValue w ≠ 0) (i : Instr) :
    withoutImmediate w i = .error (.reservedImmediate (opField w) (immField w)) :=
  if_neg (mt (immField_eq_zero_iff w).1 h)

/-- A request is decoded to the command it spells. -/
theorem decode_of_spells {r : Request} {i : Instr} (h : r.Spells i) : decode r = .ok i := by
  cases i with
  | seedScalar d =>
    obtain ⟨⟨hop, himm⟩, rfl⟩ := h
    simp only [decode, hop, withoutImmediate_of_zero himm]
  | keyWrite j d =>
    obtain ⟨hop, rfl, rfl⟩ := h
    simp only [decode, hop]
  | seedArray k | readWord k =>
    obtain ⟨hop, rfl⟩ := h
    simp only [decode, hop]
  | next | jump | readLung | readIndex | readInfo =>
    obtain ⟨hop, himm⟩ := h
    simp only [decode, hop, withoutImmediate_of_zero himm]

/-- The decoder's two answers: a command, which the request spells, or an error, the command word being illegal. -/
inductive DecoderAnswer (r : Request) : Prop where
  | spells (i : Instr) (hdecode : decode r = .ok i) (hspells : r.Spells i)
  | illegal (e : DecodeError) (hdecode : decode r = .error e) (hillegal : illegalWord r.cmd)

/-- An opcode whose command takes no immediate (30_encoding.md R77). -/
theorem DecoderAnswer.of_withoutImmediate {r : Request} {i : Instr} (hdecode : decode r = withoutImmediate r.cmd i)
    (hop : (opField r.cmd).toNat ∈ [1, 4, 5, 7, 8, 9]) (hspells : immValue r.cmd = 0 → r.Spells i) : DecoderAnswer r := by
  by_cases himm : immValue r.cmd = 0
  · exact .spells i (hdecode.trans (withoutImmediate_of_zero himm i)) (hspells himm)
  · exact .illegal _ (hdecode.trans (withoutImmediate_of_ne_zero himm i)) ((illegalWord_iff r.cmd).2 (.inr ⟨hop, himm⟩))

/-- One case per opcode of the map, and one for the reserved opcodes (30_encoding.md R75, R76). -/
theorem decoderAnswer (r : Request) : DecoderAnswer r := by
  have hdecode := decode.eq_def r
  split at hdecode
  case h_1 hop => exact .of_withoutImmediate hdecode (by simp [hop]) fun himm => ⟨⟨hop, himm⟩, rfl⟩
  case h_2 hop => exact .spells _ hdecode ⟨hop, rfl, rfl⟩
  case h_3 hop | h_6 hop => exact .spells _ hdecode ⟨hop, rfl⟩
  case h_4 hop | h_5 hop | h_7 hop | h_8 hop | h_9 hop =>
    exact .of_withoutImmediate hdecode (by simp [hop]) fun himm => ⟨hop, himm⟩
  case h_10 =>
    have reserved : (opField r.cmd).toNat = 0 ∨ 10 ≤ (opField r.cmd).toNat := by
      simp only [imp_false] at *
      omega
    exact .illegal _ hdecode ((illegalWord_iff r.cmd).2 (.inl reserved))

/-- Decoding answers a command exactly where the request spells it. -/
theorem decode_eq_ok_iff (r : Request) (i : Instr) : decode r = .ok i ↔ r.Spells i := by
  refine ⟨fun h => ?_, decode_of_spells⟩
  cases decoderAnswer r with
  | spells k hdecode hspells =>
    obtain rfl : k = i := by simpa [hdecode] using h
    exact hspells
  | illegal e hdecode _ => simp [hdecode] at h

theorem not_illegalWord_of_spells {r : Request} {i : Instr} (h : r.Spells i) : ¬illegalWord r.cmd := by
  rw [illegalWord_iff]
  cases i with
  | seedScalar d => obtain ⟨⟨hop, himm⟩, -⟩ := h; simp [hop, himm]
  | keyWrite j d => obtain ⟨hop, -, -⟩ := h; simp [hop]
  | seedArray k | readWord k => obtain ⟨hop, -⟩ := h; simp [hop]
  | next | jump | readLung | readIndex | readInfo => obtain ⟨hop, himm⟩ := h; simp [hop, himm]

theorem decode_of_illegalWord {r : Request} (h : illegalWord r.cmd) : ∃ e, decode r = .error e := by
  cases decoderAnswer r with
  | spells i _ hspells => exact absurd h (not_illegalWord_of_spells hspells)
  | illegal e hdecode _ => exact ⟨e, hdecode⟩

/-! ### Decoding what was encoded -/

/-- A well-formed command's request spells it (30_encoding.md R80). -/
theorem encode_spells {i : Instr} (h : i.wellFormed = true) : (encode i).Spells i := by
  have opcode (op : BitVec 8) (n : Nat) : (opField (c24 op n)).toNat = op.toNat := by rw [opField_c24]
  have immediate_zero (op : BitVec 8) : immValue (c24 op 0) = 0 := immValue_c24 op (by norm_num)
  cases i with
  | seedScalar d => exact ⟨⟨opcode 0x01 0, immediate_zero 0x01⟩, rfl⟩
  | keyWrite j d => exact ⟨opcode 0x02 j, (immValue_c24 0x02 (of_decide_eq_true h)).symm, rfl⟩
  | seedArray len => exact ⟨opcode 0x03 len, (immValue_c24 0x03 (of_decide_eq_true h)).symm⟩
  | next => exact ⟨opcode 0x04 0, immediate_zero 0x04⟩
  | jump => exact ⟨opcode 0x05 0, immediate_zero 0x05⟩
  | readWord k => exact ⟨opcode 0x06 k, (immValue_c24 0x06 (of_decide_eq_true h)).symm⟩
  | readLung => exact ⟨opcode 0x07 0, immediate_zero 0x07⟩
  | readIndex => exact ⟨opcode 0x08 0, immediate_zero 0x08⟩
  | readInfo => exact ⟨opcode 0x09 0, immediate_zero 0x09⟩

/-- Settles O1: a well-formed command's request spells it, and the decoder answers what a request spells. -/
theorem decodeOfEncodeIsIdentity : Obligations.DecodeOfEncodeIsIdentity := by
  unfold Obligations.DecodeOfEncodeIsIdentity
  exact fun i h => decode_of_spells (encode_spells h)

/-! ### The rows of the opcode map -/

/-- Settles O2: each row's mask and match fix the fields that its command needs. -/
theorem decodeFollowsOpcodeMap : Obligations.DecodeFollowsOpcodeMap := by
  unfold Obligations.DecodeFollowsOpcodeMap
  intro r
  simp only [decode_eq_ok_iff, and_immMask_eq_immValue]
  have bare (op : BitVec 8) := (and_fullMask_eq_iff r.cmd op).symm
  have withImmediate (op : BitVec 8) := (and_opMask_eq_iff r.cmd op).symm
  exact ⟨fun _ => and_congr_left' (bare 0x01), fun _ _ => and_congr_left' (withImmediate 0x02),
    fun _ => and_congr_left' (withImmediate 0x03), bare 0x04, bare 0x05, fun _ => and_congr_left' (withImmediate 0x06),
    bare 0x07, bare 0x08, bare 0x09⟩

/-- A row takes an immediate, and its mask is the opcode's, or its word has none, and its mask is the whole word's; a match has
no immediate (30_encoding.md R75). -/
theorem opcodeTable_rows : ∀ row ∈ opcodeTable, row.matchBits = c24 (opField row.matchBits) 0 ∧
    (row.mask = 0xFF000000 ∧ (opField row.matchBits).toNat ∈ [2, 3, 6] ∨
     row.mask = 0xFFFFFFFF ∧ (opField row.matchBits).toNat ∈ [1, 4, 5, 7, 8, 9]) := by decide

/-- A row spells a word with its opcode, if its command takes an immediate or the word has none (30_encoding.md R75). -/
theorem spells_iff_of_mem {row : OpcodeRow} (hrow : row ∈ opcodeTable) (w : BitVec 32) : row.spells w = true ↔
    (opField w).toNat = (opField row.matchBits).toNat ∧ (row.mask = 0xFFFFFFFF → immValue w = 0) := by
  obtain ⟨hmatch, ⟨hmask, -⟩ | ⟨hmask, -⟩⟩ := opcodeTable_rows row hrow
  · rw [OpcodeRow.spells, beq_iff_eq, hmatch, hmask, and_opMask_eq_iff, opField_c24]
    simp
  · rw [OpcodeRow.spells, beq_iff_eq, hmatch, hmask, and_fullMask_eq_iff, opField_c24]
    simp

theorem not_illegalWord_of_row {row : OpcodeRow} (hrow : row ∈ opcodeTable) {w : BitVec 32} (h : row.spells w = true) :
    ¬illegalWord w := by
  obtain ⟨hop, himm⟩ := (spells_iff_of_mem hrow w).1 h
  obtain ⟨-, ⟨-, hrows⟩ | ⟨hmask, hrows⟩⟩ := opcodeTable_rows row hrow
  · rw [← hop] at hrows
    simp only [illegalWord_iff, List.mem_cons, List.not_mem_nil, or_false] at hrows ⊢
    omega
  · have no_immediate := himm hmask
    rw [← hop] at hrows
    simp only [illegalWord_iff, List.mem_cons, List.not_mem_nil, or_false] at hrows ⊢
    omega

/-- Exactly one row spells a legal word, the one with its command's mnemonic (30_encoding.md R78). -/
theorem filter_spells_of_spells {r : Request} {i : Instr} (h : r.Spells i) :
    (opcodeTable.filter (fun row => row.spells r.cmd)).map OpcodeRow.mnemonic = [mnemonic i] := by
  have by_fields : opcodeTable.filter (fun row => row.spells r.cmd) = opcodeTable.filter (fun row => decide
      ((opField r.cmd).toNat = (opField row.matchBits).toNat ∧ (row.mask = 0xFFFFFFFF → immValue r.cmd = 0))) :=
    List.filter_congr fun row hrow => by rw [Bool.eq_iff_iff, decide_eq_true_iff, spells_iff_of_mem hrow]
  rw [by_fields]
  cases i with
  | seedScalar d => obtain ⟨⟨hop, himm⟩, -⟩ := h; rw [hop, himm]; rfl
  | keyWrite j d => obtain ⟨hop, -, -⟩ := h; rw [hop]; rfl
  | seedArray k | readWord k => obtain ⟨hop, -⟩ := h; rw [hop]; rfl
  | next | jump | readLung | readIndex | readInfo => obtain ⟨hop, himm⟩ := h; rw [hop, himm]; rfl

/-- No row spells an illegal word (30_encoding.md R78). -/
theorem filter_spells_of_illegalWord {w : BitVec 32} (h : illegalWord w) :
    opcodeTable.filter (fun row => row.spells w) = [] :=
  List.filter_eq_nil_iff.2 fun _ hrow hspells => not_illegalWord_of_row hrow hspells h

/-- Settles O3: a request spells a command, and one row does, or its word is illegal, and none does. -/
theorem decodingIsTotalAndUnique : Obligations.DecodingIsTotalAndUnique := by
  unfold Obligations.DecodingIsTotalAndUnique
  intro r
  cases decoderAnswer r with
  | spells i hdecode hspells =>
    have one_row : (opcodeTable.filter (fun row => row.spells r.cmd)).length = 1 := by
      simpa using congrArg List.length (filter_spells_of_spells hspells)
    exact .inl ⟨one_row, not_illegalWord_of_spells hspells, i, hdecode⟩
  | illegal e hdecode hillegal =>
    exact .inr ⟨congrArg List.length (filter_spells_of_illegalWord hillegal), hillegal, e, hdecode⟩

/-- Settles O4, by running the decoder. -/
theorem writtenWordsDecode : Obligations.WrittenWordsDecode := by
  unfold Obligations.WrittenWordsDecode
  decide

end Sys2Proof

/-! The statements of 30_encoding.md on a step: the host's side (O5, O9, O10), the data word (O7), the one response of a command
(O22). -/

namespace Sys2Proof.Machine

open Sys2Proof.Safety

/-! ### The host's next event in a state of the block -/

/-- With no event an idle block keeps every piece of state (60_exceptions.md R229). -/
theorem step_idle {s : State} (hs : s.Inv) (idle : s.pending = none) (hinputs : s.inputs = []) : step s = .next s := by
  rw [step, turn_of_inv hs, hostTurn, idle, hinputs]

/-- A wait with no command in progress is over at once [log 4]. -/
theorem step_wait {s : State} {rest : List HostEvent} (hs : s.Inv) (idle : s.pending = none)
    (hinputs : s.inputs = .wait :: rest) : step s = .next (s.setInputs rest) := by
  rw [step, turn_of_inv hs, hostTurn, idle, hinputs]

/-- A reset abandons the command in progress, if there is one (70_reset_and_hazards.md R253). -/
theorem step_reset {s : State} {rest : List HostEvent} (hs : s.Inv) (hinputs : s.inputs = .reset :: rest) :
    step s = .next (s.hostReset rest) := by
  rw [step, turn_of_inv hs, hostTurn, hinputs]
  cases s.pending <;> rfl

/-- A request before the previous response breaks the handshake (30_encoding.md R82). -/
theorem step_request_in_progress {s : State} {r q : Request} {rest : List HostEvent} (hs : s.Inv)
    (hpending : s.pending = some r) (hinputs : s.inputs = .request q :: rest) : step s = .refused .handshakeBroken := by
  rw [step, turn_of_inv hs, hostTurn, hpending, hinputs]

/-- The request in progress that nothing interrupts is answered, the host's wait being over (30_encoding.md R82). -/
theorem step_of_awaitsResponse {s : State} {r : Request} (hs : s.Inv) (h : awaitsResponse s r) :
    step s = runRequest r (s.setInputs s.inputs.tail) := by
  obtain ⟨hpending, hinputs | ⟨rest, hinputs⟩⟩ := h
  · have unchanged : s.setInputs s.inputs.tail = s :=
      State.eq_of_fields rfl rfl rfl rfl rfl rfl rfl (by rw [State.setInputs_inputs, hinputs]; rfl) rfl
    rw [unchanged, step, turn_of_inv hs, hostTurn, hpending, hinputs]
  · rw [hinputs, List.tail_cons, step, turn_of_inv hs, hostTurn, hpending, hinputs]

/-- Under the handshake every transition answers a next state (70_reset_and_hazards.md R255). -/
theorem step_next_of_keepsHandshake {s : State} (hs : s.Inv) (handshake : keepsHandshake s) : ∃ t, step s = .next t := by
  cases hpending : s.pending with
  | none =>
    rcases hinputs : s.inputs with _ | ⟨r | _ | _, rest⟩
    · exact ⟨_, step_idle hs hpending hinputs⟩
    · exact ⟨_, step_accept hs hpending hinputs⟩
    · exact ⟨_, step_wait hs hpending hinputs⟩
    · exact ⟨_, step_reset hs hinputs⟩
  | some r =>
    rcases hinputs : s.inputs with _ | ⟨q | _ | _, rest⟩
    · rw [step_of_awaitsResponse hs ⟨hpending, .inl hinputs⟩]
      exact runRequest_next r _
    · exact absurd hinputs (handshake r q rest hpending)
    · rw [step_of_awaitsResponse hs ⟨hpending, .inr ⟨rest, hinputs⟩⟩]
      exact runRequest_next r _
    · exact ⟨_, step_reset hs hinputs⟩

/-- Settles O5: the request in progress is answered, and it spells the command. -/
theorem stepRunsDecodedCommand : Obligations.StepRunsDecodedCommand := by
  unfold Obligations.StepRunsDecodedCommand
  intro s r i hs awaits hdecode
  rw [step_of_awaitsResponse hs awaits, runRequest_of_decode hdecode]
  rfl

/-- Settles O9, one equation of `step` for each event. -/
theorem idleBlockAcceptsRequests : Obligations.IdleBlockAcceptsRequests := by
  unfold Obligations.IdleBlockAcceptsRequests
  intro s hs idle
  exact ⟨step_idle hs idle, fun _ _ => step_accept hs idle, fun _ => step_wait hs idle⟩

/-- Settles O10: a request while a command is in progress is refused, and under the handshake a step answers a next state. -/
theorem handshakeBreachIsRefused : Obligations.HandshakeBreachIsRefused := by
  unfold Obligations.HandshakeBreachIsRefused
  intro s hs
  refine ⟨fun refused => ?_, fun ⟨r, q, rest, hpending, hinputs⟩ => step_request_in_progress hs hpending hinputs⟩
  by_contra no_breach
  have handshake : keepsHandshake s := fun r q rest hpending hinputs => no_breach ⟨r, q, rest, hpending, hinputs⟩
  obtain ⟨t, hnext⟩ := step_next_of_keepsHandshake hs handshake
  rw [refused] at hnext
  cases hnext

/-! ### The data word -/

section
variable {w : BitVec 32} (notScalar : (opField w).toNat ≠ 1) (notKey : (opField w).toNat ≠ 2)
include notScalar notKey

/-- Under every opcode but those of SEED_SCALAR and KEY_WRITE a request spells the same with any data word
(30_encoding.md R73). -/
theorem spells_of_data {d : Word} {i : Instr} (h : Request.Spells ⟨w, d⟩ i) (e : Word) : Request.Spells ⟨w, e⟩ i := by
  cases i with
  | seedScalar _ => exact absurd h.1.1 notScalar
  | keyWrite _ _ => exact absurd h.1 notKey
  | seedArray | next | jump | readWord | readLung | readIndex | readInfo => exact h

/-- A request's answer depends on what it spells, or on its word being illegal, and on nothing else of it. -/
theorem runRequest_eq_of_data (d e : Word) (s : State) : runRequest ⟨w, d⟩ s = runRequest ⟨w, e⟩ s := by
  cases decoderAnswer ⟨w, d⟩ with
  | spells i hdecode hspells =>
    have hdecode' := decode_of_spells (spells_of_data notScalar notKey hspells e)
    rw [runRequest_of_decode hdecode, runRequest_of_decode hdecode']
  | illegal x hdecode hillegal =>
    obtain ⟨y, hdecode'⟩ := decode_of_illegalWord (r := ⟨w, e⟩) hillegal
    rw [runRequest_of_decode_error hdecode, runRequest_of_decode_error hdecode']

end

/-- A request in progress that nothing interrupts may be exchanged for one that is answered alike: the block looks at it in no
other way (30_encoding.md R82). -/
theorem step_congr_pending {s : State} {r q : Request} (hs : s.Inv) (awaits : awaitsResponse s r)
    (same : ∀ u, runRequest r u = runRequest q u) : step s = step { s with pending := some q } := by
  obtain ⟨t, hrun⟩ := runRequest_next q (s.setInputs s.inputs.tail)
  obtain ⟨-, tInputs, -⟩ := runRequest_responds hrun
  have nothing_changed : t.setInputs s.inputs.tail = t := State.eq_of_fields rfl rfl rfl rfl rfl rfl rfl tInputs.symm rfl
  have awaits_q : awaitsResponse { s with pending := some q } q := ⟨rfl, awaits.2⟩
  calc step s = runRequest q (s.setInputs s.inputs.tail) := by rw [step_of_awaitsResponse hs awaits, same]
    _ = .next (t.setInputs s.inputs.tail) := by rw [hrun, nothing_changed]
    _ = runRequest q (s.accept q s.inputs.tail) := (runRequest_accept hrun q s.inputs.tail).symm
    _ = step { s with pending := some q } := (step_of_awaitsResponse (s := { s with pending := some q }) hs awaits_q).symm

/-- Settles O7: the two commands that read `data` by what a request spells, the other opcodes because no answer depends on it. -/
theorem dataReachesTwoCommandsOnly : Obligations.DataReachesTwoCommandsOnly := by
  unfold Obligations.DataReachesTwoCommandsOnly
  refine ⟨fun d => decodeOfEncodeIsIdentity (.seedScalar d) rfl, fun w d hmask => ?_,
    fun s w d e hs awaits notScalar notKey => step_congr_pending hs awaits ?_⟩
  · exact ⟨immValue w, decode_of_spells ⟨(and_opMask_eq_iff w 0x02).1 hmask, rfl, rfl⟩⟩
  · simp only [ne_eq, ← BitVec.toNat_inj, shiftRight_toNat_eq_opField] at notScalar notKey
    exact runRequest_eq_of_data notScalar notKey d e

/-! ### The one response of a command -/

theorem ErrorCode.status_le (e : ErrorCode) : e.status.toNat ≤ 5 := by cases e <;> decide

/-- A command answers an error with `rdata = 0`, or success with a result, which is 0 unless the command is NEXT or one of the
READ commands (30_encoding.md R74; 60_exceptions.md R210). -/
theorem exec_response {i : Instr} {s t : State} (h : exec i s = .next t) :
    (∃ e : ErrorCode, t.responses = s.responses ++ [⟨e.status, 0⟩]) ∨
    ∃ rd, t.responses = s.responses ++ [⟨0x00, rd⟩] ∧ (rd ≠ 0 → i = .next ∨ IsRead i) := by
  obtain ⟨e, rfl⟩ | ⟨d, -, rfl⟩ | ⟨j, d, -, -, rfl⟩ | ⟨len, -, -, -, rfl⟩ | ⟨rfl, -, rfl⟩ | ⟨digits, -, -, -, rfl⟩ |
    ⟨rd, read, -, rfl⟩ := exec_cases h
  case inl => exact .inl ⟨e, rfl⟩
  case inr.inr.inr.inr.inl => exact .inr ⟨_, rfl, fun _ => .inl rfl⟩
  case inr.inr.inr.inr.inr.inr => exact .inr ⟨rd, rfl, fun _ => .inr read⟩
  all_goals exact .inr ⟨0, rfl, fun nonzero => absurd rfl nonzero⟩

/-- Settles O22: every command answers a next state, and its response is an error's or a success's. -/
theorem oneResponsePerCommand : Obligations.OneResponsePerCommand := by
  unfold Obligations.OneResponsePerCommand
  intro i s
  obtain ⟨t, h⟩ := exec_next i s
  obtain ⟨tIdle, tInputs, -⟩ := exec_responds h
  obtain ⟨e, responses⟩ | ⟨rd, responses, result⟩ := exec_response h
  · exact ⟨t, _, h, responses, tIdle, tInputs, exec_cfg h, e.status_le, fun _ => rfl, fun nonzero => absurd rfl nonzero⟩
  · exact ⟨t, _, h, responses, tIdle, tInputs, exec_cfg h, Nat.zero_le 5, fun failed => absurd rfl failed, result⟩

end Sys2Proof.Machine

/-! The assembler (O59, O60): it encodes what is well formed, and the decoder gives back what it encodes. -/

namespace Sys2Proof.Machine

/-! ### One command -/

theorem assemble_command_of_wellFormed (c : Config) {i : Instr} (h : i.wellFormed = true) :
    assemble c (.command i) = some [encode i] := if_pos h

theorem assemble_command_of_not_wellFormed (c : Config) {i : Instr} (h : ¬i.wellFormed = true) :
    assemble c (.command i) = none := if_neg h

/-- An immediate of more than 24 bits fits no command word (30_encoding.md R80). -/
theorem not_immFits {n : Nat} (h : 2 ^ 24 ≤ n) : ¬immFits n = true := by
  simpa [immFits] using h

/-- Where a command has no data word, its request has the data word 0 (30_encoding.md R80). -/
theorem encode_data_eq_zero {i : Instr} (notScalar : ∀ d, i ≠ .seedScalar d) (notKey : ∀ j d, i ≠ .keyWrite j d) :
    (encode i).data = 0 := by
  cases i with
  | seedScalar d => exact absurd rfl (notScalar d)
  | keyWrite j d => exact absurd rfl (notKey j d)
  | seedArray | next | jump | readWord | readLung | readIndex | readInfo => rfl

/-- Settles O60: the assembler encodes a command exactly if it is well formed. -/
theorem assemblerRefusesWideImmediates : Obligations.AssemblerRefusesWideImmediates := by
  unfold Obligations.AssemblerRefusesWideImmediates
  intro c
  refine ⟨fun n d wide => ?_, fun i h => ?_⟩
  · have wide := not_immFits wide
    exact ⟨assemble_command_of_not_wellFormed c wide, assemble_command_of_not_wellFormed c wide,
      assemble_command_of_not_wellFormed c wide⟩
  · exact ⟨encode i, assemble_command_of_wellFormed c h, decodeOfEncodeIsIdentity i h, encode_data_eq_zero⟩

/-! ### SEED_KEY -/

theorem seedKeyCommands_length (keys : List Word) : (seedKeyCommands keys).length = keys.length + 1 := by
  simp [seedKeyCommands]

/-- The first commands write the key entries, in order (30_encoding.md R81). -/
theorem seedKeyCommands_getElem?_of_getElem? {keys : List Word} {j : Nat} {k : Word} (h : keys[j]? = some k) :
    (seedKeyCommands keys)[j]? = some (.keyWrite j k) := by
  have hj : j < keys.length := (List.getElem?_eq_some_iff.1 h).1
  rw [seedKeyCommands, List.getElem?_append_left (by rwa [List.length_mapIdx]), List.getElem?_mapIdx, h, Option.map_some]

/-- The last command seeds from the entries written (30_encoding.md R81). -/
theorem seedKeyCommands_getElem?_length (keys : List Word) :
    (seedKeyCommands keys)[keys.length]? = some (.seedArray keys.length) := by
  simp [seedKeyCommands]

/-- SEED_KEY assembles where its operands are as many as a key may have, each a word (30_encoding.md R81). -/
theorem assemble_seedKey {c : Config} {keys : List Nat} (hlength : 1 ≤ keys.length ∧ keys.length ≤ c.keyDepth)
    (hkeys : ∀ k ∈ keys, k < 2 ^ 64) :
    assemble c (.seedKey keys) = some ((seedKeyCommands (keys.map zext64)).map encode) :=
  if_pos ⟨(keyLengthLegal_iff c keys.length).2 hlength, List.all_eq_true.2 fun k hk => decide_eq_true (hkeys k hk)⟩

theorem assemble_seedKey_of_illegal_length {c : Config} {keys : List Nat}
    (hlength : keys.length = 0 ∨ c.keyDepth < keys.length) : assemble c (.seedKey keys) = none := by
  refine if_neg fun ⟨legal, _⟩ => ?_
  obtain ⟨hpos, hdepth⟩ := (keyLengthLegal_iff c keys.length).1 legal
  omega

/-- A request at the place of a well-formed command decodes to it. -/
theorem decode_getElem?_map_encode {commands : List Instr} {n : Nat} {i : Instr} (hn : commands[n]? = some i)
    (h : i.wellFormed = true) : ∃ r, (commands.map encode)[n]? = some r ∧ decode r = .ok i :=
  ⟨encode i, by rw [List.getElem?_map, hn, Option.map_some], decodeOfEncodeIsIdentity i h⟩

/-- Settles O59: the expansion's commands are well formed, for a key has fewer than `2^24` entries. -/
theorem seedKeyExpands : Obligations.SeedKeyExpands := by
  unfold Obligations.SeedKeyExpands
  intro c keys hc hkeys
  refine ⟨fun hlength => ⟨_, assemble_seedKey hlength hkeys, ?_, fun j k hj => ?_, ?_⟩, assemble_seedKey_of_illegal_length⟩
  · rw [List.length_map, seedKeyCommands_length, List.length_map]
  · have word_at : (keys.map zext64)[j]? = some (zext64 k) := by rw [List.getElem?_map, hj, Option.map_some]
    have hj_lt : j < keys.length := (List.getElem?_eq_some_iff.1 hj).1
    have fits : j < 2 ^ 24 := by omega
    exact decode_getElem?_map_encode (seedKeyCommands_getElem?_of_getElem? word_at) (decide_eq_true fits)
  · have fits : keys.length < 2 ^ 24 := by omega
    have last := seedKeyCommands_getElem?_length (keys.map zext64)
    rw [List.length_map] at last
    exact decode_getElem?_map_encode last (decide_eq_true fits)

end Sys2Proof.Machine

/-! The statements of 40_recurrence.md: NEXT's formulas (O33), the four phases (O37), the step is linear (O35), and a jump, which
sums stepped states, commutes with it (O53). The last two rest on one relation, that a state is the GF(2) sum of two others in
its logical view; every step keeps it, whatever the three indices are. -/

namespace Sys2Proof.Machine

/-! ### The step by the formulas of R107 -/

/-- The two choices of SPLIT_SOURCE with the buffer's words written out (40_recurrence.md R101). -/
theorem combine_eq_ite (c : Config) (g : GenState) : combine c g =
    if c.splitSource = .indexHigh then
      (g.words.getD g.index.toNat 0 &&& upperMask c.P) |||
        (g.words.getD ((g.index.toNat + 1) % c.N) 0 &&& ~~~upperMask c.P)
    else
      (g.words.getD ((g.index.toNat + 1) % c.N) 0 &&& upperMask c.P) |||
        (g.words.getD g.index.toNat 0 &&& ~~~upperMask c.P) := by
  cases hsplit : c.splitSource <;> simp only [combine, hsplit] <;> rfl

/-- The mask 1 keeps bit 0 and nothing else. -/
theorem and_one_eq_one_iff (v : Word) : v &&& 1 = 1 ↔ v.getLsbD 0 = true := by
  rw [show (1 : Word) = 1#64 from rfl, BitVec.and_one_eq_setWidth_ofBool_getLsbD]
  cases v.getLsbD 0 <;> decide

theorem twist_eq_ite (c : Config) (v : Word) : twist c v = if v &&& 1 = 1 then c.matrixA else 0 := by
  simp only [twist, and_one_eq_one_iff]

/-- Settles O33: `combined` and `twist` by their equations; the other formulas are the model's own once these two are. -/
theorem nextStepsAndOutputs : Obligations.NextStepsAndOutputs := by
  unfold Obligations.NextStepsAndOutputs
  intro s hseeded c w i i1 upper combined twisted lung y out
  have combined_eq : combine c s.gen = combined := combine_eq_ite c s.gen
  have twisted_eq : twist c combined = twisted := twist_eq_ite c combined
  have lung_eq : newLung c s.gen = lung := by
    rw [newLung, combined_eq, twisted_eq]
    rfl
  have slot_eq : newSlot c s.gen = y := by
    rw [newSlot, combined_eq, lung_eq]
    rfl
  have out_eq : stepOutput c s.gen = out := by
    rw [stepOutput, stepState_eq, slot_eq]
    rfl
  rw [exec_next_of_seeded hseeded, stepState_eq, slot_eq, lung_eq, out_eq]
  rfl

/-! ### The four phases -/

section
variable {c : Config} {i : Nat}

/-- Phase 1: neither lag wraps (40_recurrence.md R109). -/
theorem phase_eq_one_iff (hc : c.WellFormed) : phase c i = 1 ↔ i < c.N - c.M ∧ i < c.N - c.L := by
  unfold phase
  split_ifs <;> omega

/-- Phase 2: the larger lag wraps, the smaller does not (40_recurrence.md R109). -/
theorem phase_eq_two_iff (hc : c.WellFormed) :
    phase c i = 2 ↔ min (c.N - c.M) (c.N - c.L) ≤ i ∧ i < max (c.N - c.M) (c.N - c.L) := by
  unfold phase
  split_ifs <;> omega

/-- Phases 3 and 4: both lags wrap (40_recurrence.md R109). -/
theorem phase_eq_three_or_four_iff (hc : c.WellFormed) :
    phase c i = 3 ∨ phase c i = 4 ↔ c.N - c.M ≤ i ∧ c.N - c.L ≤ i := by
  unfold phase
  split_ifs <;> omega

theorem phase_eq_four_iff : phase c i = 4 ↔ i = c.N - 1 := by
  unfold phase
  split_ifs <;> omega

theorem phase_range (c : Config) (i : Nat) : phase c i = 1 ∨ phase c i = 2 ∨ phase c i = 3 ∨ phase c i = 4 := by
  unfold phase
  split_ifs <;> omega

end

/-- A slot number needs no modulo before the buffer wraps. -/
theorem add_mod_of_lt_sub {i d N : Nat} (h : i < N - d) : (i + d) % N = i + d := Nat.mod_eq_of_lt (by omega)

/-- A slot number past the wrap is the index less the distance to the wrap. -/
theorem add_mod_of_sub_le {i d N : Nat} (hi : i < N) (hd : d ≤ N) (h : N - d ≤ i) : (i + d) % N = i - (N - d) := by
  rw [Nat.mod_eq_sub_mod (by omega), Nat.mod_eq_of_lt (by omega)]
  omega

/-- Settles O37: each phase says which of the two lags wrap, and that gives the slot numbers. -/
theorem phasesGiveSlotNumbers : Obligations.PhasesGiveSlotNumbers := by
  unfold Obligations.PhasesGiveSlotNumbers
  intro c i hc hi
  have hM : c.M ≤ c.N := by omega
  have hL : c.L ≤ c.N := by omega
  refine ⟨phase_range c i, (phase_eq_one_iff hc).2 (by omega), phase_eq_four_iff, fun one => ?_, fun two => ?_,
    fun last => ?_, ?_⟩
  · obtain ⟨mid, tempering⟩ := (phase_eq_one_iff hc).1 one
    exact ⟨add_mod_of_lt_sub mid, add_mod_of_lt_sub tempering⟩
  · have between := (phase_eq_two_iff hc).1 two
    split
    · exact ⟨add_mod_of_lt_sub (by omega), add_mod_of_sub_le hi hL (by omega)⟩
    · exact ⟨add_mod_of_sub_le hi hM (by omega), add_mod_of_lt_sub (by omega)⟩
  · obtain ⟨mid, tempering⟩ := (phase_eq_three_or_four_iff hc).1 last
    exact ⟨add_mod_of_sub_le hi hM mid, add_mod_of_sub_le hi hL tempering⟩
  · split
    case isTrue four => rw [phase_eq_four_iff.1 four, Nat.sub_add_cancel (by omega), Nat.mod_self]
    case isFalse notFour =>
      rw [phase_eq_four_iff] at notFour
      exact add_mod_of_lt_sub (by omega)

/-! ### The word operations are linear over GF(2) -/

/-- Selecting bits by a mask is linear. -/
theorem select_xor (m x x' y y' : Word) : ((x ^^^ x') &&& m) ||| ((y ^^^ y') &&& ~~~m) =
    ((x &&& m) ||| (y &&& ~~~m)) ^^^ ((x' &&& m) ||| (y' &&& ~~~m)) := by
  ext k hk
  simp only [BitVec.getElem_or, BitVec.getElem_and, BitVec.getElem_xor, BitVec.getElem_not]
  cases m[k] <;> simp

theorem xor_and (x x' m : Word) : (x ^^^ x') &&& m = (x &&& m) ^^^ (x' &&& m) := by
  ext k hk
  simp only [BitVec.getElem_and, BitVec.getElem_xor, Bool.and_xor_distrib_right]

theorem xsl_xor (n : Nat) (u v : Word) : xsl n (u ^^^ v) = xsl n u ^^^ xsl n v := by
  simp only [xsl, BitVec.shiftLeft_xor_distrib]
  ac_rfl

theorem xsr_xor (n : Nat) (u v : Word) : xsr n (u ^^^ v) = xsr n u ^^^ xsr n v := by
  simp only [xsr, BitVec.ushiftRight_xor_distrib]
  ac_rfl

theorem twist_xor (c : Config) (u v : Word) : twist c (u ^^^ v) = twist c u ^^^ twist c v := by
  simp only [twist, BitVec.getLsbD_xor]
  cases u.getLsbD 0 <;> cases v.getLsbD 0 <;> simp

/-! ### A state that is the sum of two -/

/-- `g` is the GF(2) sum of `a` and `b` in its logical view, whatever the indices of the three (42_jump_merge.md R160). -/
structure IsSum (c : Config) (g a b : GenState) : Prop where
  words : ∀ j, j < c.N → logicalWord c g j = logicalWord c a j ^^^ logicalWord c b j
  lung : g.lung = a.lung ^^^ b.lung

theorem isSum_merge {c : Config} (hc : c.WellFormed) (a b : GenState) : IsSum c (merge c a b) a b :=
  ⟨fun j _ => logicalWord_merge a b j (by omega), merge_lung c a b⟩

/-- At one index a merge is the sum slot by slot. -/
theorem merge_eq_xorGen {c : Config} {a b : GenState} (hindex : a.index = b.index) : merge c a b = xorGen c a b := by
  have aligned : mergeOffset c a b = 0 := by simp [mergeOffset, intMod, hindex]
  refine GenState.eq_of_fields (List.map_congr_left fun i hi => ?_) rfl rfl
  rw [aligned, Nat.add_zero, Nat.mod_eq_of_lt (List.mem_range.1 hi)]

theorem isSum_xorGen {c : Config} {a b : GenState} (hc : c.WellFormed) (hindex : a.index = b.index) :
    IsSum c (xorGen c a b) a b := merge_eq_xorGen hindex ▸ isSum_merge hc a b

/-- The zero state is the sum of any state and itself. -/
theorem isSum_zeroGen (c : Config) (x : BitVec 24) (a : GenState) : IsSum c (zeroGen c x) a a :=
  ⟨fun _ _ => (readSlot_zeroGen c x _).trans BitVec.xor_self.symm, BitVec.xor_self.symm⟩

/-- Sums of states with equal logical views have equal logical views. -/
theorem IsSum.logicalView_eq {c : Config} {g a b g' a' b' : GenState} (h : IsSum c g a b) (h' : IsSum c g' a' b')
    (ha : logicalView c a = logicalView c a') (hb : logicalView c b = logicalView c b') :
    logicalView c g = logicalView c g' := by
  obtain ⟨wordsA, lungA⟩ := logicalView_eq_iff.1 ha
  obtain ⟨wordsB, lungB⟩ := logicalView_eq_iff.1 hb
  refine logicalView_eq_iff.2 ⟨fun j hj => ?_, by rw [h.lung, h'.lung, lungA, lungB]⟩
  rw [h.words j hj, h'.words j hj, wordsA j hj, wordsB j hj]

/-! ### Every step keeps a sum -/

section
variable {c : Config} {g a b : GenState}

theorem IsSum.combine_eq (hc : c.WellFormed) (hg : g.WellFormed c) (ha : a.WellFormed c) (hb : b.WellFormed c)
    (h : IsSum c g a b) : combine c g = combine c a ^^^ combine c b := by
  cases hsplit : c.splitSource with
  | indexHigh =>
    rw [combine_of_indexHigh hg hsplit, combine_of_indexHigh ha hsplit, combine_of_indexHigh hb hsplit,
      h.words 0 (by omega), h.words 1 (by omega)]
    exact select_xor ..
  | nextHigh =>
    rw [combine_of_nextHigh hg hsplit, combine_of_nextHigh ha hsplit, combine_of_nextHigh hb hsplit,
      h.words 0 (by omega), h.words 1 (by omega)]
    exact select_xor ..

theorem IsSum.newLung_eq (hc : c.WellFormed) (hg : g.WellFormed c) (ha : a.WellFormed c) (hb : b.WellFormed c)
    (h : IsSum c g a b) : newLung c g = newLung c a ^^^ newLung c b := by
  have mid : readSlot g (slotAt c g c.M) = readSlot a (slotAt c a c.M) ^^^ readSlot b (slotAt c b c.M) :=
    h.words c.M (by omega)
  simp only [newLung, h.combine_eq hc hg ha hb, BitVec.ushiftRight_xor_distrib, twist_xor, mid, h.lung, xsl_xor]
  ac_rfl

theorem IsSum.newSlot_eq (hc : c.WellFormed) (hg : g.WellFormed c) (ha : a.WellFormed c) (hb : b.WellFormed c)
    (h : IsSum c g a b) : newSlot c g = newSlot c a ^^^ newSlot c b := by
  simp only [newSlot, h.combine_eq hc hg ha hb, h.newLung_eq hc hg ha hb, xsr_xor]
  ac_rfl

/-- The outputs add: the mask of R105 keeps or clears each bit. -/
theorem IsSum.stepOutput_eq (hc : c.WellFormed) (hg : g.WellFormed c) (ha : a.WellFormed c) (hb : b.WellFormed c)
    (h : IsSum c g a b) : stepOutput c g = stepOutput c a ^^^ stepOutput c b := by
  have tempering : readSlot g (slotAt c g c.L) = readSlot a (slotAt c a c.L) ^^^ readSlot b (slotAt c b c.L) :=
    h.words c.L (by omega)
  simp only [Machine.stepOutput_eq hc hg, Machine.stepOutput_eq hc ha, Machine.stepOutput_eq hc hb,
    h.newSlot_eq hc hg ha hb, tempering, xsl_xor, xor_and]
  ac_rfl

/-- The last logical word after a step is the one written, the others are those before it, one place down. -/
theorem IsSum.stepState (hc : c.WellFormed) (hg : g.WellFormed c) (ha : a.WellFormed c) (hb : b.WellFormed c)
    (h : IsSum c g a b) : IsSum c (stepState c g) (stepState c a) (stepState c b) := by
  refine ⟨fun j hj => ?_, h.newLung_eq hc hg ha hb⟩
  by_cases last : j = c.N - 1
  · rw [last, logicalWord_stepState_last hc hg, logicalWord_stepState_last hc ha, logicalWord_stepState_last hc hb,
      h.newSlot_eq hc hg ha hb]
  · have hlt : j + 1 < c.N := by omega
    rw [logicalWord_stepState_of_lt hc hg hlt, logicalWord_stepState_of_lt hc ha hlt,
      logicalWord_stepState_of_lt hc hb hlt, h.words (j + 1) hlt]

end

/-! ### The step is linear for a fixed index -/

theorem xorGen_wellFormed {c : Config} {a : GenState} (ha : a.WellFormed c) (b : GenState) :
    (xorGen c a b).WellFormed c := ⟨by simp [xorGen], ha.2⟩

theorem zeroGen_wellFormed {c : Config} {a : GenState} (ha : a.WellFormed c) : (zeroGen c a.index).WellFormed c :=
  ⟨List.length_replicate, ha.2⟩

/-- Every slot holds one of the logical words (10_state.md R36). -/
theorem exists_slotAt_eq {c : Config} {g : GenState} {k : Nat} (hg : g.WellFormed c) (hk : k < c.N) :
    ∃ j, j < c.N ∧ slotAt c g j = k := by
  have hindex := hg.2
  refine ⟨(k + (c.N - g.index.toNat)) % c.N, Nat.mod_lt _ (by omega), ?_⟩
  rw [slotAt, Nat.add_mod_mod, show g.index.toNat + (k + (c.N - g.index.toNat)) = k + c.N by omega, Nat.add_mod_right,
    Nat.mod_eq_of_lt hk]

/-- The logical view and the index fix the whole state. -/
theorem eq_of_logicalView_eq {c : Config} {a b : GenState} (ha : a.WellFormed c) (hb : b.WellFormed c)
    (hindex : a.index = b.index) (h : logicalView c a = logicalView c b) : a = b := by
  obtain ⟨words, lung⟩ := logicalView_eq_iff.1 h
  refine GenState.eq_of_fields (words_eq_of_readSlot ha.1 hb.1 fun k hk => ?_) lung hindex
  obtain ⟨j, hj, slot_a⟩ := exists_slotAt_eq ha hk
  have slot_b : slotAt c b j = k := by rw [← slot_a, slotAt, slotAt, hindex]
  have word_eq := words j hj
  rwa [logicalWord, logicalWord, slot_a, slot_b] at word_eq

/-- A step's next index depends on the index alone (40_recurrence.md R106). -/
theorem stepState_index_eq {c : Config} {a b : GenState} (hindex : a.index = b.index) :
    (stepState c a).index = (stepState c b).index := by
  rw [stepState_index, stepState_index, slotAt, slotAt, hindex]

/-- Settles O35: the step of the XOR and the XOR of the steps are both the sum of the steps, at one index, so they are equal.
The zero state is the sum of a state and itself, so its step is the sum of the step and itself, which is the zero state. -/
theorem stepIsLinear : Obligations.StepIsLinear := by
  unfold Obligations.StepIsLinear
  intro c a b hc ha hb hindex
  have ha' := stepState_wellFormed hc ha
  have hxor := xorGen_wellFormed ha b
  have hzero := zeroGen_wellFormed ha
  have xor_sum := isSum_xorGen hc hindex
  have zero_sum := isSum_zeroGen c a.index a
  refine ⟨?_, xor_sum.stepOutput_eq hc hxor ha hb, ?_, ?_⟩
  · have steps_sum := isSum_xorGen hc (stepState_index_eq (c := c) hindex)
    exact eq_of_logicalView_eq (stepState_wellFormed hc hxor) (xorGen_wellFormed ha' _) (stepState_index_eq rfl)
      ((xor_sum.stepState hc hxor ha hb).logicalView_eq steps_sum rfl rfl)
  · exact eq_of_logicalView_eq (stepState_wellFormed hc hzero) (zeroGen_wellFormed ha') (stepState_index_eq rfl)
      ((zero_sum.stepState hc hzero ha ha).logicalView_eq (isSum_zeroGen c _ _) rfl rfl)
  · exact (zero_sum.stepOutput_eq hc hzero ha ha).trans BitVec.xor_self

/-! ### A jump commutes with a step -/

/-- `ACC` after the first `n` bits of a jump from `g` (42_jump_merge.md R164). -/
def jumpAcc (c : Config) (digits : List Char) (g : GenState) (n : Nat) : GenState :=
  ((jumpBit c digits)^[n] (jumpStart c g)).acc

theorem jump_eq_jumpAcc (c : Config) (digits : List Char) (g : GenState) :
    jump c digits g = jumpAcc c digits g (polyBits digits) := rfl

theorem jumpAcc_zero (c : Config) (digits : List Char) (g : GenState) : jumpAcc c digits g 0 = zeroGen c g.index := rfl

/-- Bit `n` merges the state `n` steps on, or nothing. -/
theorem jumpAcc_succ (c : Config) (digits : List Char) (g : GenState) (n : Nat) : jumpAcc c digits g (n + 1) =
    if polyBit digits n then merge c (jumpAcc c digits g n) (stepped c n g) else jumpAcc c digits g n := by
  obtain ⟨hk, ht, -, -⟩ := jumpBit_iterate c digits g n
  simp only [jumpAcc, Function.iterate_succ_apply', jumpBit, hk, ht]

theorem jumpAcc_wellFormed {c : Config} {g : GenState} (hg : g.WellFormed c) (digits : List Char) (n : Nat) :
    (jumpAcc c digits g n).WellFormed c := by
  obtain ⟨-, -, index_eq, length_eq⟩ := jumpBit_iterate c digits g n
  exact ⟨length_eq, by rw [jumpAcc, index_eq]; exact hg.2⟩

theorem stepped_wellFormed {c : Config} {g : GenState} (hc : c.WellFormed) (hg : g.WellFormed c) (n : Nat) :
    (stepped c n g).WellFormed c := iterate_keeps (GenState.WellFormed c) (fun _ => stepState_wellFormed hc) n hg

theorem stepped_stepState (c : Config) (n : Nat) (g : GenState) :
    stepped c n (stepState c g) = stepState c (stepped c n g) := Function.Commute.iterate_self (stepState c) n g

/-- Stepping `ACC` is accumulating from the stepped state, bit by bit (40_recurrence.md R108; 42_jump_merge.md R165). -/
theorem logicalView_stepState_jumpAcc {c : Config} {g : GenState} (hc : c.WellFormed) (hg : g.WellFormed c)
    (digits : List Char) (n : Nat) :
    logicalView c (stepState c (jumpAcc c digits g n)) = logicalView c (jumpAcc c digits (stepState c g) n) := by
  induction n with
  | zero =>
    rw [jumpAcc_zero, jumpAcc_zero]
    exact ((isSum_zeroGen c g.index g).stepState hc (zeroGen_wellFormed hg) hg hg).logicalView_eq
      (isSum_zeroGen c _ (stepState c g)) rfl rfl
  | succ n ih =>
    rw [jumpAcc_succ, jumpAcc_succ]
    split
    · have hacc := jumpAcc_wellFormed hg digits n
      have merged := isSum_merge hc (jumpAcc c digits g n) (stepped c n g)
      have hmerge : (merge c (jumpAcc c digits g n) (stepped c n g)).WellFormed c := ⟨merge_words_length .., hacc.2⟩
      exact (merged.stepState hc hmerge hacc (stepped_wellFormed hc hg n)).logicalView_eq (isSum_merge hc _ _) ih
        (by rw [stepped_stepState])
    · exact ih

/-- Settles O53: the logical views agree after all the polynomial's bits, and they fix the outputs (10_state.md R36). -/
theorem jumpCommutesWithNext : Obligations.JumpCommutesWithNext := by
  unfold Obligations.JumpCommutesWithNext
  intro c digits g hc hg
  have view_eq : logicalView c (stepState c (jump c digits g)) = logicalView c (jump c digits (stepState c g)) := by
    rw [jump_eq_jumpAcc, jump_eq_jumpAcc]
    exact logicalView_stepState_jumpAcc hc hg digits (polyBits digits)
  have stepped_jump := stepState_wellFormed hc (jump_wellFormed hg digits)
  have jump_stepped := jump_wellFormed (stepState_wellFormed hc hg) digits
  exact ⟨view_eq, logicalViewFixesOutputs c _ _ hc stepped_jump jump_stepped (.inl view_eq)⟩

end Sys2Proof.Machine

/-! The statements of 41_seeding.md: what each command of the family does (O38, O40, O41), the words of scalar seeding (O39),
the stages of array seeding and what they leave (O42, O43), that neither yields the zero state (O44), and what a seeding
command's result depends on (O45). -/

namespace Sys2Proof.Machine

/-! ### The three commands -/

/-- Settles O38: SEED_SCALAR has no guard, so the equation holds by computation in every state. -/
theorem seedScalarReplacesState : Obligations.SeedScalarReplacesState := by
  unfold Obligations.SeedScalarReplacesState
  intro d s
  rfl

theorem exec_keyWrite_of_lt {j : Nat} {s : State} (hj : j < s.cfg.keyDepth) (d : Word) :
    exec (.keyWrite j d) s = .next ((s.keyWrite j d).succeed 0) := if_pos ((keyEntryLegal_iff s.cfg j).2 hj)

/-- Settles O40: the key RAM has `KEY_DEPTH` entries and as many valid bits, so entry `j` is there to be set. -/
theorem keyWriteStoresEntry : Obligations.KeyWriteStoresEntry := by
  unfold Obligations.KeyWriteStoresEntry
  intro j d s hs hj
  obtain ⟨-, ⟨-, hkey, hvalid⟩, -⟩ := hs
  exact ⟨_, exec_keyWrite_of_lt hj d, List.getElem?_set_self (by omega), List.getElem?_set_self (by omega),
    fun k hk => ⟨List.getElem?_set_ne hk.symm, List.getElem?_set_ne hk.symm⟩, rfl⟩

/-- SEED_ARRAY past both of its guards (41_seeding.md R139). -/
theorem exec_seedArray_of_written {len : Nat} {s : State} (hlen : 1 ≤ len) (hdepth : len ≤ s.cfg.keyDepth)
    (written : ∀ j, j < len → s.keyValid[j]? = some true) :
    exec (.seedArray len) s = .next (((s.seed (seedArray s.cfg s.key len)).setSequencer .idle).succeed 0) := by
  have legal : keyLengthLegal s.cfg len = true := (keyLengthLegal_iff s.cfg len).2 ⟨hlen, hdepth⟩
  simp only [exec, execSeedArray, if_pos legal, if_pos ((keyWritten_iff s len).2 written), runSeedArray_eq]

/-- Settles O41: both guards pass, and the run on the sequencer is `seed_array` assigned in one go. -/
theorem seedArrayReplacesState : Obligations.SeedArrayReplacesState := by
  unfold Obligations.SeedArrayReplacesState
  intro len s hlen hdepth written
  exact exec_seedArray_of_written hlen hdepth written

/-! ### Scalar seeding -/

/-- Each word after the first follows from the word before it (41_seeding.md R130). -/
theorem readSlot_seedScalar_succ {c : Config} {i : Nat} (seed : Word) (hi : i + 1 < c.N) :
    readSlot (seedScalar c seed) (i + 1) = scalarNext (readSlot (seedScalar c seed) i) (i + 1) := by
  have tail := scalarTail_getD seed 1 (c.N - 1) i (by omega)
  rw [Nat.add_comm 1 i] at tail
  exact tail

/-- `lung` follows from the last word, as a word at position `N` would (41_seeding.md R130). -/
theorem seedScalar_lung (c : Config) (seed : Word) :
    (seedScalar c seed).lung = scalarNext (readSlot (seedScalar c seed) (c.N - 1)) c.N := rfl

/-- Settles O39: `scalarNext` is the formula, and the words are its iterates from the seed. -/
theorem scalarSeedWords : Obligations.ScalarSeedWords := by
  unfold Obligations.ScalarSeedWords
  intro c seed hN w formula
  refine ⟨seedScalar_words_length seed (by omega), rfl, fun i hi hiN => ?_, seedScalar_lung c seed, rfl⟩
  obtain ⟨k, rfl⟩ := Nat.exists_eq_add_of_le' hi
  exact readSlot_seedScalar_succ seed hiN

/-! ### The stages of array seeding -/

/-- Writing the word at the buffer cursor and moving the cursor on: past the last slot, slot 0 takes the last word and the
cursor restarts at 1 (41_seeding.md R134, R135). -/
theorem advanceBuffer_writeSlot (c : Config) (w : SeedWork) (v : Word) :
    advanceBuffer c { w with gen := writeSlot w.gen w.i v } =
      { gen := { words := if c.N ≤ w.i + 1 then (w.gen.words.set w.i v).set 0 ((w.gen.words.set w.i v).getD (c.N - 1) 0)
                          else w.gen.words.set w.i v
                 lung := w.gen.lung
                 index := w.gen.index }
        i := if c.N ≤ w.i + 1 then 1 else w.i + 1
        j := w.j } := by
  by_cases wraps : c.N ≤ w.i + 1
  · simp only [advanceBuffer, if_pos wraps]
    rfl
  · simp only [advanceBuffer, if_neg wraps]
    rfl

theorem advanceKey_eq (len : Nat) (w : SeedWork) :
    advanceKey len w = { w with j := if len ≤ w.j + 1 then 0 else w.j + 1 } := by
  unfold advanceKey
  split <;> rfl

/-- Settles O42: each pass of the model is the pass written out, and the other stages are equal by computation. -/
theorem arraySeedStages : Obligations.ArraySeedStages := by
  unfold Obligations.ArraySeedStages
  intro c key len mix moved pass1 pass2 g
  have pass1_eq : seedPass1 c key len = pass1 := by
    funext w
    rw [seedPass1, advanceBuffer_writeSlot, advanceKey_eq]
    rfl
  have pass2_eq : seedPass2 c = pass2 := by
    funext w
    rw [seedPass2, advanceBuffer_writeSlot]
    rfl
  rw [seedArray, pass1_eq, pass2_eq]
  rfl

/-! ### What array seeding leaves -/

/-- Stage 5 forces the top bit of slot 0 (41_seeding.md R137). -/
theorem readSlot_seedFinish_zero (c : Config) {w : SeedWork} (hw : 0 < w.gen.words.length) :
    readSlot (seedFinish c w) 0 = readSlot w.gen 0 ||| 0x8000000000000000 := readSlot_writeSlot_self hw

/-- The last stages write no slot but slot 0. -/
theorem readSlot_seedFinish_ne (c : Config) (w : SeedWork) {k : Nat} (hk : k ≠ 0) :
    readSlot (seedFinish c w) k = readSlot w.gen k := readSlot_writeSlot_ne hk

/-- Stage 4 folds `lung` against a word that stage 5 leaves alone, for `N - 1` is not 0 (41_seeding.md R136). -/
theorem seedFinish_lung {c : Config} (hN : 2 ≤ c.N) (w : SeedWork) : (seedFinish c w).lung =
    (w.gen.lung ^^^ (premix (readSlot (seedFinish c w) (c.N - 1)) * seedC3)) - zext64 c.N := by
  rw [readSlot_seedFinish_ne c w (by omega)]
  rfl

/-- The passes leave the pre-seed's `lung` to the fold (41_seeding.md R136). -/
theorem seedArray_lung {c : Config} (hN : 2 ≤ c.N) (key : List Word) (len : Nat) : (seedArray c key len).lung =
    ((seedScalar c seedArrayInit).lung ^^^ (premix (readSlot (seedArray c key len) (c.N - 1)) * seedC3)) - zext64 c.N := by
  obtain ⟨lung, -⟩ := seedPasses_lung_length c key len (max c.N len) (c.N - 1) (seedStart c)
  rw [seedArray, seedFinish_lung hN, lung]
  rfl

/-- The top bit of `words[0]` is 1 after array seeding (41_seeding.md R137). -/
theorem seedArray_topBit {c : Config} (hN : 1 ≤ c.N) (key : List Word) (len : Nat) :
    (readSlot (seedArray c key len) 0).getLsbD 63 = true := by
  obtain ⟨-, length⟩ := seedPasses_lung_length c key len (max c.N len) (c.N - 1) (seedStart c)
  have start : (seedStart c).gen.words.length = c.N := seedScalar_words_length seedArrayInit hN
  rw [seedArray, readSlot_seedFinish_zero c (by omega), BitVec.getLsbD_or]
  simp

/-- Settles O43: the passes keep `lung` and the number of words, and the last stages fold `lung` and force the top bit. -/
theorem arraySeedEndsFolded : Obligations.ArraySeedEndsFolded := by
  unfold Obligations.ArraySeedEndsFolded
  intro c key len hc g p
  obtain ⟨⟨hN, -⟩, -⟩ := hc
  have hpos : 1 ≤ c.N := by omega
  exact ⟨seedArray_words_length key len hpos, seedArray_topBit hpos key len, seedArray_index c key len,
    seedArray_lung hN key len⟩

/-! ### The zero state is never seeded -/

/-- From the word 0 the formula gives the position itself. -/
theorem scalarNext_zero (i : Nat) : scalarNext 0 i = zext64 i := by
  simp [scalarNext, premix]

theorem zext64_ne_zero {n : Nat} (hpos : 0 < n) (hlt : n < 2 ^ 64) : zext64 n ≠ 0 := by
  intro h
  have toNat_eq : n % 2 ^ 64 = 0 := congrArg BitVec.toNat h
  rw [Nat.mod_eq_of_lt hlt] at toNat_eq
  omega

/-- If the last word is 0, `lung` is `N`, which is not 0 in 64 bits (41_seeding.md R140). -/
theorem seedScalar_last_or_lung_ne_zero {c : Config} (hc : c.WellFormed) (seed : Word) :
    ¬(readSlot (seedScalar c seed) (c.N - 1) = 0 ∧ (seedScalar c seed).lung = 0) := by
  rintro ⟨last, lung⟩
  rw [seedScalar_lung, last, scalarNext_zero] at lung
  exact zext64_ne_zero (by omega) (by omega) lung

/-- `UPPER_P` has the top bit for every `P ≥ 1` (00_scope.md R9). -/
theorem upperMask_topBit {p : Nat} (hp : 1 ≤ p) : (upperMask p).getLsbD 63 = true := by
  have inWord : 63 - (64 - p) < 64 := by omega
  have notShiftedIn : ¬63 < 64 - p := by omega
  rw [upperMask, BitVec.getLsbD_shiftLeft, BitVec.getLsbD_allOnes]
  simp [inWord, notShiftedIn]

/-- Settles O44: the zero state would need `words[N-1]`, `lung` and `words[0]` to be 0. -/
theorem seedingNeverYieldsZero : Obligations.SeedingNeverYieldsZero := by
  unfold Obligations.SeedingNeverYieldsZero
  intro c seed key len hc
  have scalar := seedScalar_last_or_lung_ne_zero hc seed
  have top := seedArray_topBit (c := c) (by omega) key len
  refine ⟨scalar, ?_, fun zero => ?_, fun zero => ?_⟩
  · rw [BitVec.getLsbD_and, upperMask_topBit (by omega), Bool.and_true]
    exact top
  · rw [zero] at scalar
    exact scalar ⟨readSlot_zeroGen c 0 (c.N - 1), rfl⟩
  · rw [zero, readSlot_zeroGen] at top
    simp at top

/-! ### What a seeding command depends on -/

/-- Settles O45: neither procedure looks at `S` or `seeded`, and array seeding reads the first `len` key entries only. -/
theorem seedingIsDetermined : Obligations.SeedingIsDetermined := by
  unfold Obligations.SeedingIsDetermined
  intro s t hcfg
  refine ⟨fun d => ?_, fun len hlen hdepth entries => ?_⟩
  · have gen_eq : seedScalar s.cfg d = seedScalar t.cfg d := by rw [hcfg]
    exact ⟨_, _, seedScalarReplacesState d s, seedScalarReplacesState d t, gen_eq, rfl, rfl,
      fun n => congrArg₂ (outputs · n) hcfg gen_eq⟩
  · simp only [imp_and, forall_and] at entries
    obtain ⟨written_s, written_t, same_key⟩ := entries
    have gen_eq : seedArray s.cfg s.key len = seedArray t.cfg t.key len := by
      rw [hcfg, seedArray_congr t.cfg hlen same_key]
    exact ⟨_, _, exec_seedArray_of_written hlen hdepth written_s, exec_seedArray_of_written hlen (hcfg ▸ hdepth) written_t,
      gen_eq, rfl, rfl, fun n => congrArg₂ (outputs · n) hcfg gen_eq⟩

end Sys2Proof.Machine

/-! The statements of 42_jump_merge.md: merge in its two forms (O46, O47) and its algebra (O48), JUMP (O50), and what a jump
is: a sum of stepped states (O51), for one bit that many steps (O52), for a product two jumps (O54). -/

namespace Sys2Proof.Machine

/-! ### Merge slot by slot -/

/-- Settles O46: the slots are the model's equation, and the offset turns `a`'s rotation into `b`'s. -/
theorem mergeAddsLogicalWords : Obligations.MergeAddsLogicalWords := by
  unfold Obligations.MergeAddsLogicalWords
  intro c a b hc ha hb d
  exact ⟨merge_words_length c a b, merge_index c a b, merge_lung c a b, fun i hi => readSlot_merge hi,
    fun j => logicalWord_merge a b j (by omega)⟩

section
variable {c : Config} {a b : GenState}

/-- The offset where `b`'s index is not behind `a`'s: their distance (42_jump_merge.md R161). -/
theorem mergeOffset_of_le (hb : b.WellFormed c) (h : a.index.toNat ≤ b.index.toNat) :
    mergeOffset c a b = b.index.toNat - a.index.toNat := by
  have inRange := hb.2
  rw [mergeOffset, intMod, Int.emod_eq_of_lt (by omega) (by omega)]
  omega

/-- The offset where `b`'s index is behind `a`'s: the distance goes round the buffer (42_jump_merge.md R161). -/
theorem mergeOffset_of_lt (ha : a.WellFormed c) (h : b.index.toNat < a.index.toNat) :
    mergeOffset c a b = c.N - (a.index.toNat - b.index.toNat) := by
  have inRange := ha.2
  rw [mergeOffset, intMod, ← Int.add_emod_right, Int.emod_eq_of_lt (by omega) (by omega)]
  omega

end

/-- Settles O47: each range says whether `i + d` passes the end of the buffer. -/
theorem mergeThreeRanges : Obligations.MergeThreeRanges := by
  unfold Obligations.MergeThreeRanges
  intro c a b i hc ha hb hi n1 n2 r first second third
  have indexA : n1 < c.N := ha.2
  have indexB : n2 < c.N := hb.2
  have slot : r = a.words.getD i 0 ^^^ b.words.getD ((i + mergeOffset c a b) % c.N) 0 := readSlot_merge hi
  have ahead (h : n1 ≤ n2) : r = a.words.getD i 0 ^^^ b.words.getD ((i + (n2 - n1)) % c.N) 0 := by
    rw [slot, mergeOffset_of_le hb h]
  have behind (h : n2 < n1) : r = a.words.getD i 0 ^^^ b.words.getD ((i + (c.N - (n1 - n2))) % c.N) 0 := by
    rw [slot, mergeOffset_of_lt ha h]
  refine ⟨fun h => by omega, fun h inFirst => ?_, fun h inSecond => ?_, fun h inThird => ?_, ahead, fun h wraps => ?_,
    fun h inRange => ?_, behind⟩
  · rw [ahead h, add_mod_of_lt_sub inFirst.2]
  · rw [ahead h, add_mod_of_sub_le hi (by omega) inSecond]
  · rw [ahead h, add_mod_of_lt_sub (by omega)]
  · rw [behind h, add_mod_of_sub_le hi (by omega) (by omega), Nat.sub_sub_self (by omega)]
  · rw [behind h, add_mod_of_lt_sub (by omega), Nat.add_sub_assoc (by omega)]

/-! ### The algebra of merge -/

section
variable {c : Config} {g a b : GenState}

theorem merge_wellFormed (ha : a.WellFormed c) (b : GenState) : (merge c a b).WellFormed c :=
  ⟨merge_words_length c a b, ha.2⟩

theorem IsSum.symm (h : IsSum c g a b) : IsSum c g b a :=
  ⟨fun j hj => (h.words j hj).trans (BitVec.xor_comm ..), h.lung.trans (BitVec.xor_comm ..)⟩

/-- Every state is the sum of itself and a zero state. -/
theorem isSum_self_zeroGen (c : Config) (x : BitVec 24) (a : GenState) : IsSum c a a (zeroGen c x) := by
  have zeroWord (j : Nat) : logicalWord c (zeroGen c x) j = 0 := readSlot_zeroGen c x _
  exact ⟨fun j _ => by rw [zeroWord]; exact BitVec.xor_zero.symm, BitVec.xor_zero.symm⟩

/-- Merge is associative exactly: both sides stand at `a`'s index (42_jump_merge.md R162). -/
theorem merge_assoc (hc : c.WellFormed) (ha : a.WellFormed c) (b d : GenState) :
    merge c (merge c a b) d = merge c a (merge c b d) := by
  have hN : 0 < c.N := by omega
  refine eq_of_logicalView_eq (merge_wellFormed (merge_wellFormed ha b) d) (merge_wellFormed ha _) rfl
    (logicalView_eq_iff.2 ⟨fun j _ => ?_, BitVec.xor_assoc ..⟩)
  simp only [logicalWord_merge _ _ j hN, BitVec.xor_assoc]

theorem logicalView_merge_comm (hc : c.WellFormed) (a b : GenState) :
    logicalView c (merge c a b) = logicalView c (merge c b a) :=
  (isSum_merge hc a b).logicalView_eq (isSum_merge hc b a).symm rfl rfl

/-- States of equal views cancel (42_jump_merge.md R162). -/
theorem merge_eq_zeroGen (hc : c.WellFormed) (ha : a.WellFormed c) (h : logicalView c a = logicalView c b) :
    merge c a b = zeroGen c a.index :=
  eq_of_logicalView_eq (merge_wellFormed ha b) (zeroGen_wellFormed ha) rfl
    ((isSum_merge hc a b).logicalView_eq (isSum_zeroGen c a.index a) rfl h.symm)

theorem merge_zeroGen_right (hc : c.WellFormed) (ha : a.WellFormed c) (x : BitVec 24) : merge c a (zeroGen c x) = a :=
  eq_of_logicalView_eq (merge_wellFormed ha _) ha rfl
    ((isSum_merge hc a _).logicalView_eq (isSum_self_zeroGen c x a) rfl rfl)

/-- A zero state on the left leaves the view alone; the index becomes its own (42_jump_merge.md R162). -/
theorem logicalView_merge_zeroGen_left (hc : c.WellFormed) (x : BitVec 24) (b : GenState) :
    logicalView c (merge c (zeroGen c x) b) = logicalView c b :=
  (isSum_merge hc _ b).logicalView_eq (isSum_self_zeroGen c x b).symm rfl rfl

end

/-- Settles O48, from the laws above: the view of a merge is a GF(2) sum, and view and index fix the state. -/
theorem mergeAlgebra : Obligations.MergeAlgebra := by
  unfold Obligations.MergeAlgebra
  intro c a b d x hc ha hb hd hx
  have comm := logicalView_merge_comm hc a b
  exact ⟨comm, fun hindex => eq_of_logicalView_eq (merge_wellFormed ha b) (merge_wellFormed hb a) hindex comm,
    merge_assoc hc ha b d, merge_eq_zeroGen hc ha rfl, merge_eq_zeroGen hc ha, logicalView_merge_zeroGen_left hc x b, rfl,
    merge_zeroGen_right hc ha x⟩

/-! ### JUMP -/

/-- JUMP past both of its guards (42_jump_merge.md R166). -/
theorem exec_jump_of_seeded {s : State} {digits : List Char} (hpoly : s.cfg.jumpPoly = some digits)
    (hseeded : s.seeded = true) :
    exec .jump s = .next (((s.loadGen (jump s.cfg digits s.gen)).setSequencer .idle).succeed 0) := by
  simp only [exec, execJump, hpoly, if_pos hseeded, runJump_eq]

/-- Settles O50: both guards pass, and the run on the sequencer is `jump` assigned in one go. -/
theorem jumpReplacesState : Obligations.JumpReplacesState := by
  unfold Obligations.JumpReplacesState
  intro s digits hpoly hseeded
  exact exec_jump_of_seeded hpoly hseeded

/-! ### A jump is a sum of stepped states -/

/-- Entry `j` of the logical view: `X_j`, and past the last of them `lung` (10_state.md R36). -/
def viewWord (c : Config) (g : GenState) (j : Nat) : Word := if j < c.N then logicalWord c g j else g.lung

section
variable {c : Config} {g a b : GenState}

theorem viewWord_of_lt {j : Nat} (hj : j < c.N) : viewWord c g j = logicalWord c g j := if_pos hj

theorem viewWord_N (c : Config) (g : GenState) : viewWord c g c.N = g.lung := if_neg (Nat.lt_irrefl _)

theorem logicalView_eq_iff_viewWord : logicalView c a = logicalView c b ↔ ∀ j, viewWord c a j = viewWord c b j := by
  rw [logicalView_eq_iff]
  constructor
  · rintro ⟨words, lung⟩ j
    unfold viewWord
    split
    · next hj => exact words j hj
    · exact lung
  · intro h
    refine ⟨fun j hj => ?_, ?_⟩
    · rw [← viewWord_of_lt hj, h j, viewWord_of_lt hj]
    · rw [← viewWord_N c a, h, viewWord_N]

theorem IsSum.viewWord_eq (h : IsSum c g a b) (j : Nat) : viewWord c g j = viewWord c a j ^^^ viewWord c b j := by
  unfold viewWord
  split
  · next hj => exact h.words j hj
  · exact h.lung

@[simp] theorem viewWord_zeroGen (c : Config) (x : BitVec 24) (j : Nat) : viewWord c (zeroGen c x) j = 0 :=
  ((isSum_zeroGen c x (zeroGen c x)).viewWord_eq j).trans BitVec.xor_self

end

/-- The XOR of `f k` over the set bits `k` among the first `n` of the polynomial (42_jump_merge.md R165). -/
def xorOverBits (digits : List Char) (f : Nat → Word) (n : Nat) : Word :=
  (((List.range n).filter (fun k => polyBit digits k)).map f).foldl (· ^^^ ·) 0

theorem xorOverBits_succ (digits : List Char) (f : Nat → Word) (n : Nat) : xorOverBits digits f (n + 1) =
    if polyBit digits n then xorOverBits digits f n ^^^ f n else xorOverBits digits f n := by
  unfold xorOverBits
  cases hbit : polyBit digits n <;> simp [List.range_succ, hbit]

/-- `ACC` after `n` bits is the sum of the states merged so far (42_jump_merge.md R165). -/
theorem viewWord_jumpAcc {c : Config} (hc : c.WellFormed) (digits : List Char) (g : GenState) (j n : Nat) :
    viewWord c (jumpAcc c digits g n) j = xorOverBits digits (fun k => viewWord c (stepped c k g) j) n := by
  induction n with
  | zero => exact viewWord_zeroGen c g.index j
  | succ n ih =>
    rw [jumpAcc_succ, xorOverBits_succ]
    split
    · rw [(isSum_merge hc _ _).viewWord_eq, ih]
    · exact ih

theorem viewWord_jump {c : Config} (hc : c.WellFormed) (digits : List Char) (g : GenState) (j : Nat) :
    viewWord c (jump c digits g) j =
      xorOverBits digits (fun k => viewWord c (stepped c k g) j) (polyBits digits) :=
  viewWord_jumpAcc hc digits g j (polyBits digits)

/-- Settles O51: the sum of the views, read at `lung` and at each logical word. -/
theorem jumpSumsSteppedStates : Obligations.JumpSumsSteppedStates := by
  unfold Obligations.JumpSumsSteppedStates
  intro c digits g hc hg ks
  refine ⟨jump_words_length c digits g, jump_index c digits g, ?_, fun j hj => ?_⟩
  · have view := viewWord_jump hc digits g c.N
    simp only [viewWord_N] at view
    exact view
  · have view := viewWord_jump hc digits g j
    simp only [viewWord_of_lt hj] at view
    exact view

/-! ### A jump by one bit -/

/-- No bit is set beyond the literal (20_memory.md R54). -/
theorem polyBit_of_polyBits_le {digits : List Char} {k : Nat} (h : polyBits digits ≤ k) : polyBit digits k = false := by
  have pastEnd : digits.length ≤ k / 4 := by
    unfold polyBits at h
    omega
  rw [polyBit, polyDigit, List.getD_eq_default _ _ pastEnd]
  exact Nat.zero_testBit _

/-- Over a single set bit `k` the XOR is the one word, once the bit is reached. -/
theorem xorOverBits_single {digits : List Char} {k : Nat} (h : ∀ m, polyBit digits m = true ↔ m = k) (f : Nat → Word)
    (n : Nat) : xorOverBits digits f n = if k < n then f k else 0 := by
  induction n with
  | zero => rfl
  | succ n ih =>
    rw [xorOverBits_succ, ih]
    simp only [h n]
    by_cases reached : n = k
    · subst reached
      simp
    · simp only [if_neg reached, show k < n + 1 ↔ k < n by omega]

/-- Settles O52: the sum has one term; and view and index fix the state where no step was taken. -/
theorem monomialJumpIsStepping : Obligations.MonomialJumpIsStepping := by
  unfold Obligations.MonomialJumpIsStepping
  intro c digits k g hc hg single
  have inLiteral : k < polyBits digits := by
    by_contra beyond
    have unset := polyBit_of_polyBits_le (Nat.le_of_not_lt beyond)
    rw [(single k).2 rfl] at unset
    exact Bool.noConfusion unset
  have view : logicalView c (jump c digits g) = logicalView c (stepped c k g) :=
    logicalView_eq_iff_viewWord.2 fun j => by rw [viewWord_jump hc, xorOverBits_single single, if_pos inLiteral]
  refine ⟨view, ?_⟩
  rintro rfl
  exact eq_of_logicalView_eq (jump_wellFormed hg digits) hg (jump_index c digits g) view

/-! ### Sums over GF(2)

`Bool` with exclusive or and conjunction is Mathlib's Boolean ring, so each bit of a jump is a `Finset` sum in it. -/

/-- The polynomial applied to a sequence of bits: the GF(2) sum of `x k` over its set bits `k`. -/
def polySum (digits : List Char) (x : Nat → Bool) : Bool := ∑ k ∈ Finset.range (polyBits digits), polyBit digits k * x k

theorem getLsbD_xorOverBits (digits : List Char) (f : Nat → Word) (n b : Nat) :
    (xorOverBits digits f n).getLsbD b = ∑ k ∈ Finset.range n, polyBit digits k * (f k).getLsbD b := by
  induction n with
  | zero => exact BitVec.getLsbD_zero
  | succ n ih =>
    rw [xorOverBits_succ, Finset.sum_range_succ, ← ih]
    cases polyBit digits n with
    | true => exact BitVec.getLsbD_xor
    | false => exact (Bool.xor_false _).symm

/-- More terms than the polynomial has bits add nothing. -/
theorem polySum_eq_sum_range {digits : List Char} (x : Nat → Bool) {n : Nat} (h : polyBits digits ≤ n) :
    polySum digits x = ∑ k ∈ Finset.range n, polyBit digits k * x k := by
  refine (Finset.eventually_constant_sum (fun k hk => ?_) h).symm
  rw [polyBit_of_polyBits_le hk]
  exact zero_mul (x k)

/-- Two polynomials applied to a doubly indexed sequence may be applied in either order. -/
theorem polySum_comm (p q : List Char) (x : Nat → Nat → Bool) :
    polySum q (fun k => polySum p fun i => x i k) = polySum p fun i => polySum q fun k => x i k := by
  simp only [polySum, Finset.mul_sum]
  rw [Finset.sum_comm]
  exact Finset.sum_congr rfl fun i _ => Finset.sum_congr rfl fun k _ => mul_left_comm ..

theorem foldl_xor_range (f : Nat → Bool) (n : Nat) :
    ((List.range n).map f).foldl Bool.xor false = ∑ i ∈ Finset.range n, f i := by
  induction n with
  | zero => rfl
  | succ n ih =>
    rw [Finset.sum_range_succ, ← ih, List.range_succ, List.map_append, List.foldl_append]
    rfl

/-- The bits of `pq` are those of the product polynomial `p·q` over GF(2) (42_jump_merge.md R170). -/
def IsProduct (p q pq : List Char) : Prop :=
  ∀ k, polyBit pq k = ((List.range (k + 1)).map fun i => polyBit p i && polyBit q (k - i)).foldl Bool.xor false

/-- The product polynomial applied to a sequence is one factor applied after the other: the terms of `p·q` regrouped by their
degree. -/
theorem IsProduct.polySum_eq {p q pq : List Char} (h : IsProduct p q pq) (x : Nat → Bool) :
    polySum pq x = polySum p fun i => polySum q fun k => x (i + k) := by
  obtain ⟨n, hpq, hsum⟩ : ∃ n, polyBits pq ≤ n ∧ polyBits p + polyBits q ≤ n :=
    ⟨_, Nat.le_max_left .., Nat.le_max_right ..⟩
  have term_eq (i : Nat) : polyBit p i * (∑ k ∈ Finset.range (n - i), polyBit q k * x (i + k)) =
      polyBit p i * polySum q fun k => x (i + k) := by
    by_cases hi : i < polyBits p
    · rw [polySum_eq_sum_range _ (show polyBits q ≤ n - i by omega)]
    · rw [polyBit_of_polyBits_le (Nat.le_of_not_lt hi)]
      rfl
  calc polySum pq x
      = ∑ m ∈ Finset.range n, (∑ i ∈ Finset.range (m + 1), polyBit p i * polyBit q (m - i)) * x m := by
        rw [polySum_eq_sum_range x hpq]
        exact Finset.sum_congr rfl fun m _ => by rw [h m, foldl_xor_range]; rfl
    _ = ∑ m ∈ Finset.range n, ∑ i ∈ Finset.range (m + 1), polyBit p i * (polyBit q (m - i) * x (i + (m - i))) := by
        refine Finset.sum_congr rfl fun m _ => ?_
        rw [Finset.sum_mul]
        refine Finset.sum_congr rfl fun i hi => ?_
        rw [Nat.add_sub_cancel' (Nat.le_of_lt_succ (Finset.mem_range.1 hi)), mul_assoc]
    _ = ∑ i ∈ Finset.range n, ∑ k ∈ Finset.range (n - i), polyBit p i * (polyBit q k * x (i + k)) :=
        Finset.sum_range_diag_flip n fun i k => polyBit p i * (polyBit q k * x (i + k))
    _ = ∑ i ∈ Finset.range n, polyBit p i * polySum q fun k => x (i + k) := by
        simp only [← Finset.mul_sum, term_eq]
    _ = polySum p fun i => polySum q fun k => x (i + k) :=
        (polySum_eq_sum_range _ (Nat.le_of_add_right_le hsum)).symm

/-! ### Two jumps -/

/-- Each bit of a jump's view is the polynomial applied to that bit of the stepped states' views. -/
theorem getLsbD_viewWord_jump {c : Config} (hc : c.WellFormed) (digits : List Char) (g : GenState) (j b : Nat) :
    (viewWord c (jump c digits g) j).getLsbD b = polySum digits fun k => (viewWord c (stepped c k g) j).getLsbD b := by
  rw [viewWord_jump hc, getLsbD_xorOverBits]
  rfl

theorem stepped_succ (c : Config) (k : Nat) (g : GenState) : stepped c (k + 1) g = stepState c (stepped c k g) :=
  Function.iterate_succ_apply' (stepState c) k g

theorem stepped_add (c : Config) (i k : Nat) (g : GenState) : stepped c i (stepped c k g) = stepped c (i + k) g :=
  (Function.iterate_add_apply (stepState c) i k g).symm

/-- A jump commutes with any number of steps (42_jump_merge.md R165). -/
theorem logicalView_stepped_jump {c : Config} {g : GenState} (hc : c.WellFormed) (hg : g.WellFormed c)
    (digits : List Char) (k : Nat) :
    logicalView c (stepped c k (jump c digits g)) = logicalView c (jump c digits (stepped c k g)) := by
  induction k with
  | zero => rfl
  | succ k ih =>
    have hstepped := stepped_wellFormed hc hg k
    have hleft := stepped_wellFormed hc (jump_wellFormed hg digits) k
    have hright := jump_wellFormed hstepped digits
    have one_step := (AgreeForStep.of_logicalView_eq hc hleft hright ih).logicalView_stepState_eq hc hleft hright
    obtain ⟨commutes, -⟩ := jumpCommutesWithNext c digits _ hc hstepped
    rw [stepped_succ, stepped_succ, one_step, commutes]

/-- Settles O54: bit by bit, the second jump sums the first's, which commutes with the steps between; regrouped by degree that
is the sum over the product's bits. -/
theorem jumpsCompose : Obligations.JumpsCompose := by
  unfold Obligations.JumpsCompose
  intro c p q pq g hc hg (product : IsProduct p q pq)
  refine logicalView_eq_iff_viewWord.2 fun j => BitVec.eq_of_getLsbD_eq fun b _ => ?_
  have shifted (k : Nat) : (viewWord c (stepped c k (jump c p g)) j).getLsbD b =
      polySum p fun i => (viewWord c (stepped c (i + k) g) j).getLsbD b := by
    rw [logicalView_eq_iff_viewWord.1 (logicalView_stepped_jump hc hg p k) j, getLsbD_viewWord_jump hc]
    simp only [stepped_add]
  rw [getLsbD_viewWord_jump hc q, getLsbD_viewWord_jump hc pq, product.polySum_eq]
  simp only [shifted]
  exact polySum_comm ..

end Sys2Proof.Machine

/-! The statements of 43_inspect.md: the three READ commands of a seeded block (O55, O56, O57) and the fields of the INFO
word (O58). -/

namespace Sys2Proof.Machine

/-! ### The READ commands that need a seeded block -/

/-- READ_WORD past both of its guards (43_inspect.md R190). -/
theorem exec_readWord_of_lt {i : Nat} {s : State} (hi : i < s.cfg.N) (hseeded : s.seeded = true) :
    exec (.readWord i) s = .next (s.succeed (readSlot s.gen i)) := by
  simp only [exec, execReadWord, if_pos ((slotLegal_iff s.cfg i).2 hi), if_pos hseeded]

theorem exec_readLung_of_seeded {s : State} (hseeded : s.seeded = true) :
    exec .readLung s = .next (s.succeed s.gen.lung) := if_pos hseeded

theorem exec_readIndex_of_seeded {s : State} (hseeded : s.seeded = true) :
    exec .readIndex s = .next (s.succeed (zext64 s.gen.index.toNat)) := if_pos hseeded

/-- A slot that the buffer has reads as its word (20_memory.md R52). -/
theorem readSlot_of_getElem? {g : GenState} {i : Nat} {v : Word} (h : g.words[i]? = some v) : readSlot g i = v := by
  rw [readSlot, List.getD_eq_getElem?_getD, h, Option.getD_some]

/-- Settles O55: both guards pass, and the word read is the slot's. -/
theorem readWordReturnsSlot : Obligations.ReadWordReturnsSlot := by
  unfold Obligations.ReadWordReturnsSlot
  intro s i v hseeded hi slot
  rw [exec_readWord_of_lt hi hseeded, readSlot_of_getElem? slot]
  rfl

/-- Settles O56: the one guard passes. -/
theorem readLungReturnsLung : Obligations.ReadLungReturnsLung := by
  unfold Obligations.ReadLungReturnsLung
  intro s hseeded
  exact exec_readLung_of_seeded hseeded

/-- Zero extension of a 24-bit field keeps its value (00_scope.md R9). -/
theorem zext64_toNat_field (x : BitVec 24) : (zext64 x.toNat).toNat = x.toNat := by
  rw [zext64, BitVec.toNat_ofNat]
  omega

/-- A word whose value fits in 24 bits has nothing above them. -/
theorem extractLsb'_high_eq_zero {v : Word} (h : v.toNat < 2 ^ 24) : v.extractLsb' 24 40 = 0 := by
  apply BitVec.eq_of_toNat_eq
  rw [BitVec.extractLsb'_toNat, Nat.shiftRight_eq_div_pow, Nat.div_eq_of_lt h]
  rfl

/-- Settles O57: the value is that of the 24-bit field, which the invariant keeps below `N` (10_state.md R33). -/
theorem readIndexReturnsIndex : Obligations.ReadIndexReturnsIndex := by
  unfold Obligations.ReadIndexReturnsIndex
  intro s hs hseeded
  have value := zext64_toNat_field s.gen.index
  obtain ⟨-, index_lt⟩ := hs.gen_wellFormed hseeded
  exact ⟨_, exec_readIndex_of_seeded hseeded, value, value.trans_lt index_lt,
    extractLsb'_high_eq_zero (value.trans_lt s.gen.index.isLt)⟩

/-! ### The INFO word -/

/-- A shifted word has its bits that many places higher up. -/
theorem getLsbD_word_shiftLeft (v : Word) (n : Nat) {k : Nat} (hk : k < 64) :
    (v <<< n).getLsbD k = (decide (n ≤ k) && v.getLsbD (k - n)) := by
  simp only [BitVec.getLsbD_shiftLeft, hk, decide_true, Bool.true_and, ← decide_not, Nat.not_lt]

/-- A flag shifted to bit `n` is that bit and no other (00_scope.md R9). -/
theorem getLsbD_flagWord_shiftLeft (b : Bool) (n : Nat) {k : Nat} (hk : k < 64) :
    (flagWord b <<< n).getLsbD k = (decide (k = n) && b) := by
  have bitZero (m : Nat) : (flagWord b).getLsbD m = (decide (m = 0) && b) := by cases b <;> simp [flagWord]
  have place : n ≤ k ∧ k - n = 0 ↔ k = n := by omega
  rw [getLsbD_word_shiftLeft _ n hk, bitZero, ← Bool.and_assoc, ← Bool.decide_and, decide_eq_decide.2 place]

/-- The INFO word bit by bit, each part at its place (10_state.md R28). -/
theorem getLsbD_infoWord (c : Config) (seeded : Bool) {k : Nat} (hk : k < 64) : (infoWord c seeded).getLsbD k =
    (c.N.testBit k || (decide (k = 24) && c.jumpPoly.isSome) || (decide (k = 25) && seeded) ||
      (decide (32 ≤ k) && c.keyDepth.testBit (k - 32))) := by
  simp only [infoWord, jumpSupported, BitVec.getLsbD_or, getLsbD_flagWord_shiftLeft _ _ hk,
    getLsbD_word_shiftLeft _ _ hk, BitVec.getLsbD_ofNat, hk, show k - 32 < 64 by omega, decide_true, Bool.true_and]

/-- `N` and `KEY_DEPTH` have no bits beyond their fields (00_scope.md R7). -/
theorem testBit_beyond_field {n k : Nat} (hn : n ≤ 2 ^ 24 - 1) (hk : 24 ≤ k) : n.testBit k = false :=
  Nat.testBit_lt_two_pow (lt_of_lt_of_le (by omega) (Nat.pow_le_pow_right (by norm_num) hk))

/-- Above the two flags there is only `KEY_DEPTH` (10_state.md R28). -/
theorem getLsbD_infoWord_above_flags {c : Config} (hN : c.N ≤ 2 ^ 24 - 1) (seeded : Bool) {k : Nat} (above : 26 ≤ k)
    (hk : k < 64) : (infoWord c seeded).getLsbD k = (decide (32 ≤ k) && c.keyDepth.testBit (k - 32)) := by
  have N_bit : c.N.testBit k = false := testBit_beyond_field hN (by omega)
  simp [getLsbD_infoWord c seeded hk, N_bit, show k ≠ 24 by omega, show k ≠ 25 by omega]

/-- A field of 24 bits that holds the bits of a number below `2^24` has its value. -/
theorem extractLsb'_toNat_of_testBit {v : Word} {start n : Nat} (hn : n < 2 ^ 24)
    (bits : ∀ k, k < 24 → v.getLsbD (start + k) = n.testBit k) : (v.extractLsb' start 24).toNat = n := by
  have field : v.extractLsb' start 24 = BitVec.ofNat 24 n := BitVec.eq_of_getLsbD_eq fun k hk => by
    rw [BitVec.getLsbD_extractLsb', BitVec.getLsbD_ofNat, bits k hk]
  rw [field, BitVec.toNat_ofNat, Nat.mod_eq_of_lt hn]

/-- A field whose bits are all 0 is 0. -/
theorem extractLsb'_eq_zero {v : Word} {start len : Nat} (bits : ∀ k, k < len → v.getLsbD (start + k) = false) :
    v.extractLsb' start len = 0 := by
  refine BitVec.eq_of_getLsbD_eq fun k hk => ?_
  rw [BitVec.getLsbD_extractLsb', bits k hk, Bool.and_false]
  exact BitVec.getLsbD_zero.symm

/-- Settles O58: READ_INFO has no guard, and each field is read off the word bit by bit. -/
theorem readInfoReturnsFields : Obligations.ReadInfoReturnsFields := by
  unfold Obligations.ReadInfoReturnsFields
  intro s hc
  obtain ⟨⟨-, hN⟩, -, -, -, -, -, -, ⟨-, hdepth⟩, -⟩ := hc
  have above_flags {k : Nat} := getLsbD_infoWord_above_flags hN s.seeded (k := k)
  refine ⟨infoWord s.cfg s.seeded, rfl, extractLsb'_toNat_of_testBit (by omega) fun k hk => ?N, ?jumpSupported, ?seeded,
    extractLsb'_eq_zero fun k hk => ?reserved, extractLsb'_toNat_of_testBit (by omega) fun k hk => ?keyDepth,
    extractLsb'_eq_zero fun k hk => ?reservedTop⟩
  case N =>
    rw [getLsbD_infoWord _ _ (by omega)]
    simp [show k ≠ 24 by omega, show k ≠ 25 by omega, show ¬32 ≤ k by omega]
  case jumpSupported =>
    rw [getLsbD_infoWord _ _ (by omega), testBit_beyond_field hN (by omega)]
    simp
  case seeded =>
    rw [getLsbD_infoWord _ _ (by omega), testBit_beyond_field hN (by omega)]
    simp
  case reserved => simp [above_flags (show 26 ≤ 26 + k by omega) (by omega), show ¬32 ≤ 26 + k by omega]
  case keyDepth => simp [above_flags (show 26 ≤ 32 + k by omega) (by omega)]
  case reservedTop =>
    have depth_bit : s.cfg.keyDepth.testBit (56 + k - 32) = false := testBit_beyond_field hdepth (by omega)
    rw [above_flags (by omega) (by omega), depth_bit, Bool.and_false]

end Sys2Proof.Machine

/-! The statements of 60_exceptions.md: an illegal word (O8), what a failed command leaves (O23), each error's cause (O25 to O28)
and the order of the causes (O24). One lemma for each cause of R213 to R216 says that it is answered where no earlier one
applies; the statements are uses of these. -/

namespace Sys2Proof.Machine

open Sys2Proof.Safety

/-! ### Each cause is answered with its error -/

section
variable {s : State} {i : Instr}

/-- An immediate out of range is the first guard of every command that has one (60_exceptions.md R213). -/
theorem exec_of_badArgument (bad : badArgument s.cfg i) : exec i s = .next (s.raise .invalidArgument) := by
  cases i with
  | keyWrite j d =>
    have illegal : ¬keyEntryLegal s.cfg j = true := by rw [keyEntryLegal_iff]; exact Nat.not_lt.2 bad
    exact if_neg illegal
  | seedArray len =>
    have bad : len = 0 ∨ s.cfg.keyDepth < len := bad
    have illegal : ¬keyLengthLegal s.cfg len = true := by rw [keyLengthLegal_iff]; omega
    exact if_neg illegal
  | readWord k =>
    have illegal : ¬slotLegal s.cfg k = true := by rw [slotLegal_iff]; exact Nat.not_lt.2 bad
    exact if_neg illegal
  | seedScalar | next | jump | readLung | readIndex | readInfo => exact bad.elim

/-- JUMP looks for its polynomial before anything else (60_exceptions.md R214). -/
theorem exec_of_lacksJump (lacks : lacksJump s.cfg i) : exec i s = .next (s.raise .unsupported) := by
  cases i with
  | jump =>
    have noPoly : s.cfg.jumpPoly = none := lacks
    simp only [exec, execJump, noPoly]
  | seedScalar | keyWrite | seedArray | next | readWord | readLung | readIndex | readInfo => exact lacks.elim

/-- Past these two causes, a command that needs a seeded block fails on one that is not (60_exceptions.md R215). -/
theorem exec_of_lacksSeed (good : ¬badArgument s.cfg i) (supported : ¬lacksJump s.cfg i) (lacks : lacksSeed s.seeded i) :
    exec i s = .next (s.raise .notSeeded) := by
  cases i with
  | next | readLung | readIndex => exact if_neg (ne_true_of_eq_false lacks)
  | jump =>
    obtain ⟨digits, hpoly⟩ := Option.ne_none_iff_exists'.1 supported
    simp only [exec, execJump, hpoly, if_neg (ne_true_of_eq_false lacks)]
  | readWord k =>
    have legal : slotLegal s.cfg k = true := (slotLegal_iff s.cfg k).2 (Nat.lt_of_not_le good)
    simp only [exec, execReadWord, if_pos legal, if_neg (ne_true_of_eq_false lacks)]
  | seedScalar | keyWrite | seedArray | readInfo => exact lacks.elim

/-- SEED_ARRAY with a legal length fails on an entry that was not written (60_exceptions.md R216). -/
theorem exec_of_lacksKey (good : ¬badArgument s.cfg i) (lacks : lacksKey s.keyValid i) :
    exec i s = .next (s.raise .keyUnwritten) := by
  cases i with
  | seedArray len =>
    have good : ¬(len = 0 ∨ s.cfg.keyDepth < len) := good
    have legal : keyLengthLegal s.cfg len = true := by rw [keyLengthLegal_iff]; omega
    have unwritten : ¬keyWritten s len = true := by
      obtain ⟨j, hj, invalid⟩ := lacks
      rw [keyWritten_iff]
      exact fun written => invalid (written j hj)
    simp only [exec, execSeedArray, if_pos legal, if_neg unwritten]
  | seedScalar | keyWrite | next | jump | readWord | readLung | readIndex | readInfo => exact lacks.elim

/-- With none of the causes a command passes its guards and succeeds (60_exceptions.md R211). -/
theorem exec_of_noCause (good : ¬badArgument s.cfg i) (supported : ¬lacksJump s.cfg i) (seeded : ¬lacksSeed s.seeded i)
    (written : ¬lacksKey s.keyValid i) : ∃ t rd, exec i s = .next t ∧ t.responses = s.responses ++ [⟨0x00, rd⟩] := by
  cases i with
  | seedScalar | readInfo => exact ⟨_, _, rfl, rfl⟩
  | keyWrite j d => exact ⟨_, _, exec_keyWrite_of_lt (Nat.lt_of_not_le good) d, rfl⟩
  | seedArray len =>
    have good : ¬(len = 0 ∨ s.cfg.keyDepth < len) := good
    have written : ∀ j, j < len → s.keyValid[j]? = some true := by simpa [lacksKey] using written
    exact ⟨_, _, exec_seedArray_of_written (by omega) (by omega) written, rfl⟩
  | next => exact ⟨_, _, exec_next_of_seeded (eq_true_of_ne_false seeded), rfl⟩
  | jump =>
    obtain ⟨digits, hpoly⟩ := Option.ne_none_iff_exists'.1 supported
    exact ⟨_, _, exec_jump_of_seeded hpoly (eq_true_of_ne_false seeded), rfl⟩
  | readWord k => exact ⟨_, _, exec_readWord_of_lt (Nat.lt_of_not_le good) (eq_true_of_ne_false seeded), rfl⟩
  | readLung => exact ⟨_, _, exec_readLung_of_seeded (eq_true_of_ne_false seeded), rfl⟩
  | readIndex => exact ⟨_, _, exec_readIndex_of_seeded (eq_true_of_ne_false seeded), rfl⟩

end

/-- Settles O25: the four clauses are the causes of R213, and an error changes nothing but the response and the request. -/
theorem invalidArgumentIsReported : Obligations.InvalidArgumentIsReported := by
  unfold Obligations.InvalidArgumentIsReported
  intro s n d
  exact ⟨exec_of_badArgument (i := .keyWrite n d), exec_of_badArgument (i := .seedArray 0) (.inl rfl),
    fun tooLong => exec_of_badArgument (i := .seedArray n) (.inr tooLong), exec_of_badArgument (i := .readWord n)⟩

/-- Settles O26: the polynomial is looked for before `seeded`. -/
theorem jumpWithoutPolynomialIsUnsupported : Obligations.JumpWithoutPolynomialIsUnsupported := by
  unfold Obligations.JumpWithoutPolynomialIsUnsupported
  intro s noPoly
  exact exec_of_lacksJump (i := .jump) noPoly

/-- Settles O27: no earlier cause applies to these commands, JUMP with its polynomial and READ_WORD with its slot included. -/
theorem unseededCommandsFail : Obligations.UnseededCommandsFail := by
  unfold Obligations.UnseededCommandsFail
  intro s unseeded
  refine ⟨exec_of_lacksSeed (i := .next) id id unseeded, fun hasPoly => ?_, fun k hk => ?_,
    exec_of_lacksSeed (i := .readLung) id id unseeded, exec_of_lacksSeed (i := .readIndex) id id unseeded⟩
  · exact exec_of_lacksSeed (i := .jump) id (Option.isSome_iff_ne_none.1 hasPoly) unseeded
  · exact exec_of_lacksSeed (i := .readWord k) (Nat.not_le.2 hk) id unseeded

/-- Settles O28: the length is legal, and entry `j` is one it needs. -/
theorem unwrittenKeyIsReported : Obligations.UnwrittenKeyIsReported := by
  unfold Obligations.UnwrittenKeyIsReported
  intro s len j hlen hdepth hj invalid
  have good : ¬badArgument s.cfg (.seedArray len) := by rw [badArgument]; omega
  exact exec_of_lacksKey good ⟨j, hj, by simp [invalid]⟩

/-! ### A request is answered by the first cause -/

/-- Settles O8: an illegal word decodes to no command, so the request in progress is answered with the error. -/
theorem illegalWordIsAnswered : Obligations.IllegalWordIsAnswered := by
  unfold Obligations.IllegalWordIsAnswered
  intro s r hs awaits illegal
  obtain ⟨e, hdecode⟩ := decode_of_illegalWord illegal
  rw [step_of_awaitsResponse hs awaits, runRequest_of_decode_error hdecode]
  rfl

/-- The status by the order of causes is the one a command answers (60_exceptions.md R217). -/
theorem exec_of_statusFor {s : State} {i : Instr} {st : BitVec 8} (h : statusFor i s st) :
    ∃ t rd, exec i s = .next t ∧ t.responses = s.responses ++ [⟨st, rd⟩] := by
  obtain ⟨bad, rfl⟩ | ⟨-, noJump, rfl⟩ | ⟨good, supported, unseeded, rfl⟩ | ⟨good, -, -, unwritten, rfl⟩ |
    ⟨good, supported, seeded, written, rfl⟩ := h
  · exact ⟨_, _, exec_of_badArgument bad, rfl⟩
  · exact ⟨_, _, exec_of_lacksJump noJump, rfl⟩
  · exact ⟨_, _, exec_of_lacksSeed good supported unseeded, rfl⟩
  · exact ⟨_, _, exec_of_lacksKey good unwritten, rfl⟩
  · exact exec_of_noCause good supported seeded written

/-- SEED_ARRAY does not need `seeded`, and no other command reads the key RAM (60_exceptions.md R217). -/
theorem not_lacksKey_of_lacksSeed {seeded : Bool} {keyValid : List Bool} {i : Instr} (h : lacksSeed seeded i) :
    ¬lacksKey keyValid i := by
  cases i with
  | seedArray => exact h.elim
  | seedScalar | keyWrite | next | jump | readWord | readLung | readIndex | readInfo => exact id

/-- Settles O24: an illegal word is answered before any command is decoded, and a command by its first cause. -/
theorem errorPriority : Obligations.ErrorPriority := by
  unfold Obligations.ErrorPriority
  refine ⟨fun s r hs awaits => ⟨fun illegal => ?_, fun i st hdecode hstatus => ?_⟩,
    fun _ _ ⟨unseeded, unwritten⟩ => not_lacksKey_of_lacksSeed unseeded unwritten⟩
  · exact ⟨_, illegalWordIsAnswered s r hs awaits illegal, rfl⟩
  · rw [step_of_awaitsResponse hs awaits, runRequest_of_decode hdecode]
    exact exec_of_statusFor (s := s.setInputs s.inputs.tail) hstatus

/-! ### A failed command -/

/-- A command fails, and only its response is new, or it answers success (60_exceptions.md R210). -/
theorem exec_raises_or_succeeds {i : Instr} {s t : State} (h : exec i s = .next t) :
    (∃ e, t = s.raise e) ∨ ∃ rd, t.responses = s.responses ++ [⟨0x00, rd⟩] := by
  obtain error | ⟨d, -, rfl⟩ | ⟨j, d, -, -, rfl⟩ | ⟨len, -, -, -, rfl⟩ | ⟨-, -, rfl⟩ | ⟨digits, -, -, -, rfl⟩ |
    ⟨rd, -, -, rfl⟩ := exec_cases h
  case inl => exact .inl error
  all_goals exact .inr ⟨_, rfl⟩

/-- Settles O23: a response that is not success's is an error's, and `raise` changes nothing else. -/
theorem failedCommandChangesNothing : Obligations.FailedCommandChangesNothing := by
  unfold Obligations.FailedCommandChangesNothing
  intro i s t resp h responses failed
  obtain ⟨e, rfl⟩ | ⟨rd, ok⟩ := exec_raises_or_succeeds h
  · obtain rfl : ⟨e.status, 0⟩ = resp := by simpa using responses
    exact ⟨rfl, rfl⟩
  · obtain rfl : ⟨0x00, rd⟩ = resp := by simpa using ok.symm.trans responses
    exact absurd rfl failed

end Sys2Proof.Machine

/-! The statements of 70_reset_and_hazards.md: a reset clears the block and abandons the command in progress (O12), every
command ends (O18), and which commands succeed right after reset (O14). -/

namespace Sys2Proof.Machine

open Sys2Proof.Safety

/-! ### Reset -/

/-- A reset takes only the record and the responses delivered so far from the state it meets (70_reset_and_hazards.md R250,
R253). -/
theorem State.hostReset_congr {s u : State} (hcfg : u.cfg = s.cfg) (hresponses : u.responses = s.responses)
    (rest : List HostEvent) : u.hostReset rest = s.hostReset rest := by
  rw [State.hostReset, State.hostReset, hcfg, hresponses]

/-- Settles O12: by `step_reset` both steps end in the state `hostReset` makes, and by `State.hostReset_congr` that is one
state. -/
theorem resetClearsAndAbandons : Obligations.ResetClearsAndAbandons := by
  unfold Obligations.ResetClearsAndAbandons
  intro s rest hs hinputs
  refine ⟨s.hostReset rest, step_reset hs hinputs, rfl, rfl, rfl, rfl, rfl, rfl, rfl, ?_⟩
  intro u hu hcfg hsame hresponses
  have step_u : step u = .next (s.hostReset rest) := by
    rw [step_reset hu (hsame.trans hinputs), State.hostReset_congr hcfg hresponses]
  exact ⟨_, step_u, rfl, rfl, rfl, rfl, rfl, rfl⟩

/-! ### Every command ends -/

/-- Settles O18: `step_next_of_keepsHandshake` goes through the host's next event, with and without a command in progress. -/
theorem stepCompletesUnderHandshake : Obligations.StepCompletesUnderHandshake := by
  unfold Obligations.StepCompletesUnderHandshake
  intro s hs handshake
  exact step_next_of_keepsHandshake hs handshake

/-! ### Commands right after reset -/

/-- A command that fails right after reset delivers the first response there is. -/
theorem resetWith_raise_responses (c : Config) (e : ErrorCode) :
    ((State.resetWith c).raise e).responses = [⟨e.status, 0⟩] := rfl

/-- Settles O14: no cause of an error applies to the first three commands, and the other five are those of R215 on an unseeded
block, by O27. -/
theorem commandsAfterReset : Obligations.CommandsAfterReset := by
  unfold Obligations.CommandsAfterReset
  intro c _ status
  have fails {i : Instr} (h : exec i (State.resetWith c) = .next ((State.resetWith c).raise .notSeeded)) : status i 0x04 :=
    ⟨_, _, h, resetWith_raise_responses c .notSeeded⟩
  obtain ⟨next, jump, readWord, readLung, readIndex⟩ := unseededCommandsFail (State.resetWith c) rfl
  refine ⟨fun d => ?seedScalar, fun j d hj => ?keyWrite, ?readInfo, fails next, fun hpoly => fails (jump hpoly),
    fun i hi => fails (readWord i hi), fails readLung, fails readIndex⟩
  case seedScalar => exact exec_of_noCause (s := State.resetWith c) (i := .seedScalar d) id id id id
  case keyWrite => exact exec_of_noCause (s := State.resetWith c) (i := .keyWrite j d) (Nat.not_le.2 hj) id id id
  case readInfo => exact exec_of_noCause (s := State.resetWith c) (i := .readInfo) id id id id

end Sys2Proof.Machine
